-- ==== Sys2Proof/Word.lean ====
section
/-! DEFINITION. The two unsigned integer types of the engine (spec/00_scope.md R10): the octet and the 16-bit field. -/

namespace Sys2Proof

/-- An octet: an unsigned integer in 0..255 (R10). -/
abbrev Octet := BitVec 8

/-- A `u16`: the type of `body_length` and `manufacturer_code` (R10, R71). -/
abbrev U16 := BitVec 16

end Sys2Proof
end

