-- ==== Sys2Proof/Config.lean ====
section
/-! DEFINITION. What one implementation of the engine fixes: the constants of spec/00_scope.md R7 and the
parameters of R8 (`Config`), with their default values and the constraints R8 puts on them. -/

namespace Sys2Proof

/-! ## The constants of R7 -/

/-- `REPORT_LEN`: octets in every report (R7). -/
abbrev reportLen : Nat := 64
/-- `HEADER_LEN`: octets in the transfer header (R7). -/
abbrev headerLen : Nat := 8
/-- `CAP_FIRST`: greatest payload of a first report (R7). -/
abbrev capFirst : Nat := 52
/-- `CAP_CONT`: greatest payload of a continuation report (R7). -/
abbrev capCont : Nat := 61
/-- `PROTOCOL_VERSION`: the only legal `protocol_version` (R7). -/
abbrev protocolVersion : Octet := 0
/-- The only legal `header_length` field value, `HEADER_LEN` as an octet (R71). -/
abbrev headerLength : Octet := 8
/-- `MFR_STANDARD`: the `manufacturer_code` the encoder writes (R7). -/
abbrev mfrStandard : U16 := 0
/-- `BODY_LENGTH_MAX`: greatest value of the 16-bit `body_length` field (R7). -/
abbrev bodyLengthMax : Nat := 65535
/-- `KNX_FRAME_MAX`: the KNX extended-frame maximum (R7). -/
abbrev knxFrameMax : Nat := 263

/-! ## The members of the catalogs (R8, R100) -/

/-- A protocol name of `PID_TABLE`. R8 demands `KNX_TUNNEL` and leaves the rest open; `other n` stands for
any name the spec does not write out (DESIGN CHOICE, log 12). -/
inductive ProtocolId where
  | knxTunnel
  | mBusTunnel
  | batibusTunnel
  | busAccessServerFeatureService
  | other (n : Nat)
  deriving DecidableEq, Repr

/-- An EMI format name of `EMI_TABLE`: exactly the three members R8 demands. -/
inductive EmiId where
  | emi1
  | emi2
  | cemi
  deriving DecidableEq, Repr

/-- A cEMI message name of `MC_TABLE`; R8 puts no constraint on it, so `other n` stands for any further
name (DESIGN CHOICE, log 12). -/
inductive MessageCode where
  | lDataReq
  | lDataInd
  | lDataCon
  | other (n : Nat)
  deriving DecidableEq, Repr

/-- The parameters of R8. They are fixed for the life of an engine (R35, R62): no operation writes them. -/
structure Config where
  /-- `MAX_FRAME_LEN`: the greatest frame `TX.FRAG` accepts (R8, R162). -/
  maxFrameLen : Nat
  /-- `SEQ_MAX`: the greatest legal sequence number (R8, R74). -/
  seqMax : Nat
  /-- `SEQ_W`: the width of the side-band in bits (R8, R74). -/
  seqW : Nat
  /-- `CNT_W`: the width of `rx_fail_count` in bits (R8, R29). -/
  cntW : Nat
  /-- `PID_TABLE` (R8, R101). -/
  pidTable : List (Octet × ProtocolId)
  /-- `EMI_TABLE` (R8, R102). -/
  emiTable : List (Octet × EmiId)
  /-- `MC_TABLE` (R8, R103). -/
  mcTable : List (Octet × MessageCode)
  deriving DecidableEq, Repr

namespace Config

/-- The default of `SEQ_MAX` for a given `MAX_FRAME_LEN`: 1 + ceil(max(0, `MAX_FRAME_LEN` − 52) / 61) (R8). -/
def seqMaxDefault (maxFrameLen : Nat) : Nat := 1 + (maxFrameLen - capFirst + (capCont - 1)) / capCont

/-- The defaults of R8. The table codes are `[from general knowledge, not in source]` (GK1 to GK3 of
spec/93_implementation_defined.md); no statement of this package rests on them. PRESUMED, log 7. -/
def default : Config where
  maxFrameLen := knxFrameMax
  seqMax := seqMaxDefault knxFrameMax
  seqW := 4
  cntW := 32
  pidTable := [(0x01, .knxTunnel), (0x02, .mBusTunnel), (0x03, .batibusTunnel),
    (0x0F, .busAccessServerFeatureService)]
  emiTable := [(0x01, .emi1), (0x02, .emi2), (0x03, .cemi)]
  mcTable := [(0x11, .lDataReq), (0x29, .lDataInd), (0x2E, .lDataCon)]

/-- A catalog is a bijection between its codes and its members: no code and no member occurs twice (R100). -/
abbrev isCatalog {α : Type} (t : List (Octet × α)) : Prop :=
  (t.map Prod.fst).Nodup ∧ (t.map Prod.snd).Nodup

/-- `m` is a member of the catalog `t`. -/
abbrev isMember {α : Type} (t : List (Octet × α)) (m : α) : Prop := m ∈ t.map Prod.snd

/-- The constraints R8 puts on the parameters (with R100 on the three tables). -/
structure Ok (c : Config) : Prop where
  maxFrameLen_pos : 1 ≤ c.maxFrameLen
  maxFrameLen_le : c.maxFrameLen ≤ bodyLengthMax
  seqMax_pos : 1 ≤ c.seqMax
  seqW_wide : c.seqMax + 1 < 2 ^ c.seqW
  cntW_pos : 1 ≤ c.cntW
  pidTable_catalog : isCatalog c.pidTable
  pidTable_knx : isMember c.pidTable .knxTunnel
  emiTable_catalog : isCatalog c.emiTable
  emiTable_emi1 : isMember c.emiTable .emi1
  emiTable_emi2 : isMember c.emiTable .emi2
  emiTable_cemi : isMember c.emiTable .cemi
  mcTable_catalog : isCatalog c.mcTable

/-- `RX_BUF_LEN` = `CAP_FIRST` + (`SEQ_MAX` − 1) × `CAP_CONT`: all the payload a transfer can bring (R9, R190). -/
def rxBufLen (c : Config) : Nat := capFirst + (c.seqMax - 1) * capCont

end Config

end Sys2Proof
end

