-- ==== Sys2Proof/Syntax.lean ====
section
/-! DEFINITION. The operations of the engine (spec/30_encoding.md R80) and the three wire formats (R71 to R73) as
one inductive `Instr`, one constructor per row of spec/opcode_table.json; the value types their operands have
(spec/10_state.md R27); and the inputs on which a request reaches the engine (`Request`, R81). -/

namespace Sys2Proof

/-! ## Value types (R27) -/

/-- The fields of a valid `Header` (R27). -/
structure HeaderFields where
  protocolVersion : Octet
  headerLength : Octet
  bodyLength : U16
  protocolId : ProtocolId
  emiId : EmiId
  manufacturerCode : U16
  deriving DecidableEq, Repr

/-- `Header` = `Invalid | Valid{...}`: an invalid header has no field to read (R27, R267, U1). -/
inductive Header where
  | invalid
  | valid (f : HeaderFields)
  deriving DecidableEq, Repr

/-- The fields of a valid `Body`; also the type `BodyData` (R27). -/
structure BodyFields where
  payload : List Octet
  isPartial : Bool
  deriving DecidableEq, Repr

/-- `Body` = `Invalid | Valid{...}` (R27, R140, U1). -/
inductive Body where
  | invalid
  | valid (f : BodyFields)
  deriving DecidableEq, Repr

/-- The six fields of wire format `HDR` as they stand in its 8 octets, before any check (R71). The two identifiers
are raw codes here. -/
structure HdrImage where
  protocolVersion : Octet
  headerLength : Octet
  bodyLength : U16
  protocolId : Octet
  emiId : Octet
  manufacturerCode : U16
  deriving DecidableEq, Repr

/-! ## The operations -/

/-- The rows of spec/opcode_table.json. The first fifteen carry a select code (R81), `reset` is the separate input,
`reserved0` the reserved select code (R82). The last three are the table's `WIRE` rows: a wire format arriving at
the engine, field by field (R71 to R73). -/
inductive Instr where
  /-- `PID.DEC` (R101). -/
  | pidDec (code : Octet)
  /-- `EMI.DEC` (R102). -/
  | emiDec (code : Octet)
  /-- `MC.DEC` (R103). -/
  | mcDec (code : Octet)
  /-- `CAP` (R104). -/
  | cap (seq : Nat)
  /-- `HDR.ENC` (R121). -/
  | hdrEnc (bodyLength : U16) (pid : ProtocolId) (emi : EmiId)
  /-- `HDR.DEC` (R122). -/
  | hdrDec (bytes : List Octet)
  /-- `HDR.TOB` (R123). -/
  | hdrTob (hdr : Header)
  /-- `BODY.ENC` (R141). -/
  | bodyEnc (payload : List Octet) (isPartial : Bool)
  /-- `BODY.DEC` (R142). -/
  | bodyDec (bytes : List Octet)
  /-- `BODY.TOB` (R143). -/
  | bodyTob (body : Body) (isPartial : Bool)
  /-- `BODY.MC` (R144). -/
  | bodyMc (body : Body)
  /-- `BODY.LEN` (R145). -/
  | bodyLen (body : Body)
  /-- `TX.FRAG` (R161). -/
  | txFrag (pid : ProtocolId) (emi : EmiId) (frame : List Octet)
  /-- `RX.REPORT` (R195). -/
  | rxReport (seq : Nat) (report : List Octet)
  /-- `RX.ABORT` (R196). -/
  | rxAbort
  /-- `RESET` (R260). -/
  | reset
  /-- `RESERVED.0`: select code 0x0 (R82). -/
  | reserved0
  /-- `HDR`: an 8-octet header image (R71). -/
  | hdr (image : HdrImage)
  /-- `RPT.FIRST`: a 64-octet report whose side-band `seq` is 1: header, body image, pad (R72, R74). -/
  | rptFirst (header : HdrImage) (body : List Octet) (pad : List Octet)
  /-- `RPT.CONT`: a 64-octet report with another side-band `seq`: body image, pad (R73, R74). -/
  | rptCont (seq : Nat) (body : List Octet) (pad : List Octet)
  deriving DecidableEq, Repr

/-! ## The inputs of the engine -/

/-- The operand signals that go with a select code. The spec gives operand names and types (R83) and no layout
(D1, D24 of spec/92_eei_decisions.md): an operation reads the ones its rule names. DESIGN
CHOICE, log 3. -/
structure OperandBus where
  /-- `bytes`, `payload`, `frame` or `report`. -/
  octets : List Octet
  /-- The side-band `seq` (R74). -/
  seq : Nat
  /-- `code`. -/
  code : Octet
  /-- `body_length`. -/
  bodyLength : U16
  /-- `pid`, a member name and not a raw code (D29). -/
  pid : ProtocolId
  /-- `emi`, a member name (D29). -/
  emi : EmiId
  /-- `is_partial`. -/
  isPartial : Bool
  /-- `hdr`. -/
  hdr : Header
  /-- `body`. -/
  body : Body
  deriving DecidableEq, Repr

/-- Every operand signal at its lowest value: no octets, numbers 0, the first member of each catalog (`KNX_TUNNEL`
and `EMI1`, members of every legal table by R8), `false`, and no header or body. -/
def OperandBus.idle : OperandBus where
  octets := []
  seq := 0
  code := 0
  bodyLength := 0
  pid := .knxTunnel
  emi := .emi1
  isPartial := false
  hdr := .invalid
  body := .invalid

/-- One request on one input of the engine. -/
inductive Request where
  /-- The request port: `op[3:0]` with its operands (R81). -/
  | op (select : BitVec 4) (bus : OperandBus)
  /-- The one-bit reset input (R81, R85): asserted = 1. -/
  | resetPin (level : BitVec 1)
  /-- A header image on its own (format `HDR`). -/
  | headerImage (octets : List Octet)
  /-- An inbound report from the transport with its side-band (formats `RPT.FIRST`, `RPT.CONT`). -/
  | report (seq : Nat) (octets : List Octet)
  deriving DecidableEq, Repr

end Sys2Proof
end

