-- ==== Sys2Proof/WellFormed.lean ====
section
/-! DEFINITION. Which `Instr` values the spec's operand types and layouts admit, for given parameters. Decoding and
running do not ask for it; statements do. -/

namespace Sys2Proof

/-- A `Header` value that `HDR.ENC` or `HDR.DEC` can have made: invalid, or meeting the validity invariant (R125). -/
def Header.wf (c : Config) : Header → Bool
  | .invalid => true
  | .valid f =>
    f.protocolVersion == protocolVersion && f.headerLength == headerLength
      && decide (Config.isMember c.pidTable f.protocolId) && decide (Config.isMember c.emiTable f.emiId)

/-- A `Body` value that `BODY.ENC` or `BODY.DEC` can have made: "payload length must not exceed the capacity for
its segment kind" (R140). -/
def Body.wf : Body → Bool
  | .invalid => true
  | .valid f => decide (f.payload.length ≤ bif f.isPartial then capCont else capFirst)

/-- The fixed bits of format `HDR`: `match` 0x0008 under `mask` 0xFFFF of the first two octets (R71, R85). -/
def HdrImage.wf (h : HdrImage) : Bool := h.protocolVersion == 0x00 && h.headerLength == 0x08

/-- The value fits on the `SEQ_W`-bit side-band (R74). -/
def seqFits (c : Config) (seq : Nat) : Bool := decide (seq < 2 ^ c.seqW)

/-- The parts of a wire format have the sizes of R72 and R73, and the side-band names the format (R74, R195). All
that decoding an encoded instruction needs. -/
def Instr.sized : Instr → Bool
  | .rptFirst _ body pad => body.length == capFirst && pad.length == 4
  | .rptCont seq body pad => body.length == capCont && pad.length == 3 && seq != 1
  | .pidDec _ | .emiDec _ | .mcDec _ | .cap _ | .hdrEnc _ _ _ | .hdrDec _ | .hdrTob _ | .bodyEnc _ _
  | .bodyDec _ | .bodyTob _ _ | .bodyMc _ | .bodyLen _ | .txFrag _ _ _ | .rxReport _ _ | .rxAbort | .reset
  | .reserved0 | .hdr _ => true

/-- The instruction's operands are of the types its rule gives, for the parameters `c`. -/
def Instr.wf (c : Config) : Instr → Bool
  | .pidDec _ | .emiDec _ | .mcDec _ | .hdrDec _ | .bodyEnc _ _ | .bodyDec _ | .rxAbort | .reset => true
  | .cap seq => seqFits c seq
  | .hdrEnc _ pid emi => decide (Config.isMember c.pidTable pid) && decide (Config.isMember c.emiTable emi)
  | .hdrTob h => h.wf c
  | .bodyTob body _ => body.wf
  | .bodyMc body => body.wf
  | .bodyLen body => body.wf
  | .txFrag pid emi _ => decide (Config.isMember c.pidTable pid) && decide (Config.isMember c.emiTable emi)
  | .rxReport seq _ => seqFits c seq
  | .reserved0 => false
  | .hdr image => image.wf
  | .rptFirst header body pad => header.wf && body.length == capFirst && pad.length == 4
  | .rptCont seq body pad =>
    decide (2 ≤ seq) && decide (seq ≤ c.seqMax) && body.length == capCont && pad.length == 3

end Sys2Proof
end

