-- ==== Sys2Proof/Decode.lean ====
section
/-! DEFINITION. Octet and field helpers (spec/00_scope.md R10, spec/30_encoding.md R75), the decoder of requests, the
encoder written from the same tables (R71 to R73, R81, R85), and the reading of a table word. -/

namespace Sys2Proof

/-! ## Byte sequences and fields (R10, R75) -/

/-- `b[i:j]`: the octets at offsets `i` to `j − 1`; empty when `i ≥ j`; `j` is clipped to `len(b)` (R10). -/
def slice (b : List Octet) (i j : Nat) : List Octet := (b.take j).drop i

/-- `zeros(n)` (R10). -/
def zeros (n : Nat) : List Octet := List.replicate n 0

/-- `b[i]` (R10); only read at offsets the length checks have shown to exist. -/
def octetAt (b : List Octet) (i : Nat) : Octet := b.getD i 0

/-- `be16(b, i)` = `b[i]` × 256 + `b[i+1]` (R10, R75). -/
def be16 (b : List Octet) (i : Nat) : U16 :=
  BitVec.ofNat 16 ((octetAt b i).toNat * 256 + (octetAt b (i + 1)).toNat)

/-- `hi(v)` = `v` div 256 (R10). -/
def hi (v : U16) : Octet := BitVec.ofNat 8 (v.toNat / 256)

/-- `lo(v)` = `v` mod 256 (R10). -/
def lo (v : U16) : Octet := BitVec.ofNat 8 (v.toNat % 256)

/-- The fields of format `HDR` at their offsets (R71, R75). -/
def HdrImage.ofOctets (b : List Octet) : HdrImage where
  protocolVersion := octetAt b 0
  headerLength := octetAt b 1
  bodyLength := be16 b 2
  protocolId := octetAt b 4
  emiId := octetAt b 5
  manufacturerCode := be16 b 6

/-- The 8 octets of format `HDR` (R71, R75). -/
def HdrImage.octets (h : HdrImage) : List Octet :=
  [h.protocolVersion, h.headerLength, hi h.bodyLength, lo h.bodyLength, h.protocolId, h.emiId,
    hi h.manufacturerCode, lo h.manufacturerCode]

/-! ## The decoder -/

/-- Why an input is no request. -/
inductive Reject where
  /-- The reset input is 0: nothing is asked (R85). -/
  | resetNotAsserted
  deriving DecidableEq, Repr

/-- The operation a select code names, with the operands its rule reads off the bus (R81, R82, R83). -/
def decodeSelect (select : BitVec 4) (bus : OperandBus) : Instr :=
  match select.toNat with
  | 0x1 => .txFrag bus.pid bus.emi bus.octets
  | 0x2 => .rxReport bus.seq bus.octets
  | 0x3 => .rxAbort
  | 0x4 => .hdrEnc bus.bodyLength bus.pid bus.emi
  | 0x5 => .hdrDec bus.octets
  | 0x6 => .hdrTob bus.hdr
  | 0x7 => .bodyEnc bus.octets bus.isPartial
  | 0x8 => .bodyDec bus.octets
  | 0x9 => .bodyTob bus.body bus.isPartial
  | 0xA => .bodyMc bus.body
  | 0xB => .bodyLen bus.body
  | 0xC => .pidDec bus.code
  | 0xD => .emiDec bus.code
  | 0xE => .mcDec bus.code
  | 0xF => .cap bus.seq
  | _ => .reserved0

/-- A header image: format `HDR` when it has 8 octets (R71). Of any other length it is no instance of the format
but still octets to be decoded as a header, which is `HDR.DEC` (R122). -/
def decodeHeaderImage (octets : List Octet) : Instr :=
  if octets.length = headerLen then .hdr (.ofOctets octets) else .hdrDec octets

/-- An inbound report: `RPT.FIRST` when `seq` = 1 and `RPT.CONT` otherwise, told by the side-band and never by the
octets (R74, R85, R195). Of any length but 64 it has neither format and is the plain `RX.REPORT` (R184). -/
def decodeReport (seq : Nat) (octets : List Octet) : Instr :=
  if octets.length = reportLen then
    if seq = 1 then .rptFirst (.ofOctets (slice octets 0 8)) (slice octets 8 60) (slice octets 60 64)
    else .rptCont seq (slice octets 0 61) (slice octets 61 64)
  else .rxReport seq octets

/-- The decoder: total on every request, rejecting by name. -/
def decode : Request → Except Reject Instr
  | .op select bus => .ok (decodeSelect select bus)
  | .resetPin level => if level = 1 then .ok .reset else .error .resetNotAsserted
  | .headerImage octets => .ok (decodeHeaderImage octets)
  | .report seq octets => .ok (decodeReport seq octets)

/-! ## The encoder -/

/-- The request that asks for an instruction: its select code or input (R81, R85), its operands on the bus, the
octets of a wire format in the order of R71 to R73. -/
def encode : Instr → Request
  | .txFrag pid emi frame => .op 0x1 { OperandBus.idle with pid := pid, emi := emi, octets := frame }
  | .rxReport seq report => .op 0x2 { OperandBus.idle with seq := seq, octets := report }
  | .rxAbort => .op 0x3 OperandBus.idle
  | .hdrEnc bodyLength pid emi =>
    .op 0x4 { OperandBus.idle with bodyLength := bodyLength, pid := pid, emi := emi }
  | .hdrDec bytes => .op 0x5 { OperandBus.idle with octets := bytes }
  | .hdrTob hdr => .op 0x6 { OperandBus.idle with hdr := hdr }
  | .bodyEnc payload isPartial => .op 0x7 { OperandBus.idle with octets := payload, isPartial := isPartial }
  | .bodyDec bytes => .op 0x8 { OperandBus.idle with octets := bytes }
  | .bodyTob body isPartial => .op 0x9 { OperandBus.idle with body := body, isPartial := isPartial }
  | .bodyMc body => .op 0xA { OperandBus.idle with body := body }
  | .bodyLen body => .op 0xB { OperandBus.idle with body := body }
  | .pidDec code => .op 0xC { OperandBus.idle with code := code }
  | .emiDec code => .op 0xD { OperandBus.idle with code := code }
  | .mcDec code => .op 0xE { OperandBus.idle with code := code }
  | .cap seq => .op 0xF { OperandBus.idle with seq := seq }
  | .reset => .resetPin 1
  | .reserved0 => .op 0x0 OperandBus.idle
  | .hdr image => .headerImage image.octets
  | .rptFirst header body pad => .report 1 (header.octets ++ body ++ pad)
  | .rptCont seq body pad => .report seq (body ++ pad)

/-! ## Table words -/

/-- The eight octets of one 64-bit big-endian word, offset 0 in bits 63:56 (R71, R85). -/
def octetsOfWord64 (w : Nat) : List Octet :=
  [BitVec.ofNat 8 (w >>> 56), BitVec.ofNat 8 (w >>> 48), BitVec.ofNat 8 (w >>> 40), BitVec.ofNat 8 (w >>> 32),
    BitVec.ofNat 8 (w >>> 24), BitVec.ofNat 8 (w >>> 16), BitVec.ofNat 8 (w >>> 8), BitVec.ofNat 8 w]

/-- `n` such words, the first in the lowest 64 bits of `w`. -/
def octetsOfWords : Nat → Nat → List Octet
  | 0, _ => []
  | n + 1, w => octetsOfWord64 w ++ octetsOfWords n (w >>> 64)

/-- The request a row's table bits stand for (numbered as spec/opcode_table.json numbers them), everything above
them 0. Which input they belong to is told by their number, the rows' only difference: 1 to 3 bits are the one-bit
reset input; 4 to 63 bits (one octet for the 4-bit select, whose upper bits the port does not have) are `op[3:0]`;
64 to 511 bits are the 64-bit big-endian word of a header image; 512 bits and more are a report in 64-bit
big-endian words, its side-band `seq` in the bits from 512 up. The octets never choose between the two report formats:
that is the side-band's part alone (R85). DESIGN CHOICE, log 4. -/
def requestOfWord (nbits w : Nat) : Option Request :=
  if nbits = 0 then none
  else if nbits < 4 then some (.resetPin (BitVec.ofNat 1 w))
  else if nbits < 64 then some (.op (BitVec.ofNat 4 w) OperandBus.idle)
  else if nbits < 512 then some (.headerImage (octetsOfWord64 w))
  else some (.report (w >>> 512) (octetsOfWords 8 w))

/-- The instruction the decoder reads from a row's table bits; `none` where it refuses. -/
def decodeTableWord (nbits w : Nat) : Option Instr :=
  match requestOfWord nbits w with
  | none => none
  | some r =>
    match decode r with
    | .ok i => some i
    | .error _ => none

end Sys2Proof
end

