-- ==== Sys2Proof/Machine/State.lean ====
section
/-! DEFINITION. The state of one engine (spec/10_state.md), the failure record (spec/60_exceptions.md R221, R224), the
responses of the operations, the reasons a step can stop, and the state after reset (R34). -/

namespace Sys2Proof.Machine

open Sys2Proof

/-! ## Failures as values (R220, R221, R224) -/

/-- The reasons of R221: ten, the codes 10 to 15 being reserved and never produced (U7). -/
inductive Reason where
  | none
  | malformedLength
  | unknownEnumValue
  | protocolVersionMismatch
  | headerLengthMismatch
  | unexpectedContinuation
  | sequenceGapOrDuplicate
  | frameTooLarge
  | capacityExceeded
  | abortedByCaller
  deriving DecidableEq, Repr

/-- Which field an `UnknownEnumValue` concerns; `seq` (code 0) also stands when the reason has no field (R224). -/
inductive EnumField where
  | seq
  | protocolId
  | emiId
  | messageCode
  deriving DecidableEq, Repr

/-- A failure record (R224, R225). -/
structure FailRecord where
  reason : Reason
  seq : Nat
  field : EnumField
  expected : Nat
  actual : Nat
  deriving DecidableEq, Repr

/-- "No failure yet": what the status registers hold after reset (R28, R34). -/
def FailRecord.none : FailRecord where
  reason := .none
  seq := 0
  field := .seq
  expected := 0
  actual := 0

/-! ## Responses -/

/-- The result of a fallible lookup: `Ok(member)` or `Err(UnknownEnumValue(raw))` (R12, R100). -/
inductive Lookup (α : Type) where
  | ok (a : α)
  | unknownEnumValue (raw : Nat)
  deriving DecidableEq, Repr

/-- The outcome of `RX.REPORT` and `RX.ABORT` (R181). -/
inductive RxOutcome where
  /-- No frame is ready, or there was nothing to do. -/
  | noFrame
  /-- The source's `Complete`: the reassembled frame with the three header fields of its transfer (R193). -/
  | frame (f : List Octet) (pid : ProtocolId) (emi : EmiId) (mfr : U16)
  /-- The source's `Failed`. -/
  | fail (r : FailRecord)
  deriving DecidableEq, Repr

/-- What an operation answers. -/
inductive Response where
  /-- `PID.DEC` (R101). -/
  | protocolId (r : Lookup ProtocolId)
  /-- `EMI.DEC` (R102). -/
  | emiId (r : Lookup EmiId)
  /-- `MC.DEC` (R103). -/
  | messageCode (r : Lookup MessageCode)
  /-- `CAP` (R104). -/
  | capacity (r : Lookup Nat)
  /-- `HDR.ENC`, `HDR.DEC`: a header, with a diagnostic beside an invalid one (R121, R122). -/
  | header (h : Header) (diagnostic : Option FailRecord)
  /-- `BODY.ENC`, `BODY.DEC`: a body, with a diagnostic beside an invalid one (R141, R142). -/
  | body (b : Body) (diagnostic : Option FailRecord)
  /-- `HDR.TOB`, `BODY.TOB` (R123, R143). -/
  | octets (b : List Octet)
  /-- `BODY.MC` (R144). -/
  | emiMessageCode (c : Option Octet)
  /-- `BODY.LEN` (R145). -/
  | length (n : Option Nat)
  /-- `TX.FRAG`, `Ok(reports)`: pairs of `seq` and report, in the order to submit (R160). -/
  | reports (rs : List (Nat × List Octet))
  /-- `TX.FRAG`, `Fail(record)` (R160, R229). -/
  | txFail (r : FailRecord)
  /-- `RX.REPORT`, `RX.ABORT` (R181). -/
  | rx (o : RxOutcome)
  deriving DecidableEq, Repr

/-! ## The receive context (R21 to R26, R30) -/

/-- The context registers of the in-flight transfer. They have a meaning only in `COLLECTING` (R30). -/
structure Transfer where
  /-- `rx_body_length`, a `u16` (R22). -/
  bodyLength : U16
  /-- `rx_count`, a `u16`: "the running total" (R23). -/
  count : Nat
  /-- `rx_next_seq`, `SEQ_W` + 1 bits (R24). -/
  nextSeq : Nat
  /-- `rx_buf`, held as the list of the `rx_count` octets accumulated so far (R25, log 10). -/
  buf : List Octet
  /-- `rx_pid` (R26). -/
  pid : ProtocolId
  /-- `rx_emi` (R26). -/
  emi : EmiId
  /-- `rx_mfr`, a `u16` (R26). -/
  mfr : U16
  deriving DecidableEq, Repr

/-- `rx_state` (R21) with the context it gives a meaning to: `Idle | Collecting{...}`, the form R30 asks for, so
that in `IDLE` there is nothing to read (U3; log 6). -/
inductive RxContext where
  | idle
  | collecting (t : Transfer)
  deriving DecidableEq, Repr

/-- `rx_state` as the bit of R21: `IDLE` 0, `COLLECTING` 1. -/
def RxContext.code : RxContext → BitVec 1
  | .idle => 0
  | .collecting _ => 1

/-! ## The state -/

/-- One engine: its parameters, its state (R20), and its two ports to the caller. -/
structure State where
  /-- The parameters of R8. No state of the engine: no operation writes them (R20, R35). -/
  cfg : Config
  /-- `rx_state` and the receive context (R21 to R26). -/
  rx : RxContext
  /-- `st_reason`, `st_seq`, `st_field`, `st_expected`, `st_actual`: the last receive failure (R28). -/
  status : FailRecord
  /-- `rx_fail_count`, `CNT_W` bits, saturating (R29). -/
  rxFailCount : Nat
  /-- The caller's stream of requests not yet performed, in the order issued (R59). The model's own port
  (DESIGN CHOICE, log 1). -/
  requests : List Request
  /-- The response of the operation the last step performed, if it had one (R3). The model's own port (DESIGN CHOICE, log 2). -/
  response : Option Response
  deriving DecidableEq, Repr

namespace State

/-- `st_reason` (R28). -/
abbrev stReason (s : State) : Reason := s.status.reason
/-- `st_seq` (R28). -/
abbrev stSeq (s : State) : Nat := s.status.seq
/-- `st_field` (R28). -/
abbrev stField (s : State) : EnumField := s.status.field
/-- `st_expected` (R28). -/
abbrev stExpected (s : State) : Nat := s.status.expected
/-- `st_actual` (R28). -/
abbrev stActual (s : State) : Nat := s.status.actual

/-- An engine with parameters `c` right after `RESET` (R34, R260), asked for nothing yet. -/
def fresh (c : Config) : State where
  cfg := c
  rx := .idle
  status := .none
  rxFailCount := 0
  requests := []
  response := Option.none

/-- The machine right after reset, with the default parameters of R8 (log 7, log 11). -/
def reset : State := fresh Config.default

end State

/-! ## Stops -/

/-- The faults of the machine: none. "No failure is ever raised into the caller as anything other than this
returned value, and no failure stops the engine" (R230); no behaviour of the spec is `stuck`
(spec/93_implementation_defined.md). Nothing raises one, so no claim can rest on one: safe. -/
inductive Fault where
  deriving DecidableEq, Repr

/-- Why a request gets no step at all (R15, "refused"). -/
inductive Refusal where
  /-- The instruction has no meaning yet in this model. Raised by `exec`'s own arms only. Safe. -/
  | notModelled (mnemonic : String)
  /-- Select code 0x0: "the model gives it no step" (R82). Raised by `RESERVED.0`. Safe: the spec's own refusal. -/
  | reservedSelect
  /-- An identifier that is no member of its table, offered to `HDR.ENC`, `HDR.TOB` or `TX.FRAG`: "outside the
  operation's domain and the request is refused" (R121, R160, U8). Safe: the spec's own refusal. -/
  | notAMember
  /-- A `seq` that the `SEQ_W`-bit side-band cannot carry, offered to `RX.REPORT` or `RPT.CONT` (or `RPT.FIRST`
  with `SEQ_W` = 0, which R8 excludes): no such request exists (R74, R182). Safe. -/
  | seqNotOnSideBand
  deriving DecidableEq, Repr

end Sys2Proof.Machine
end

