-- ==== Sys2Proof/Machine/Flags.lean ====
section
/-! DEFINITION. The engine has no condition codes (spec/10_state.md R27): its flags are the `valid` mark of headers and
bodies, and the numbers that the failure registers show (R28, spec/60_exceptions.md R221, R224). -/

namespace Sys2Proof.Machine

open Sys2Proof

/-- The `valid` mark of a header (R27). -/
def headerValid : Header → Bool
  | .invalid => false
  | .valid _ => true

/-- The `valid` mark of a body (R27). -/
def bodyValid : Body → Bool
  | .invalid => false
  | .valid _ => true

/-- The code that `st_reason` holds (R221). -/
def reasonCode : Reason → BitVec 4
  | .none => 0
  | .malformedLength => 1
  | .unknownEnumValue => 2
  | .protocolVersionMismatch => 3
  | .headerLengthMismatch => 4
  | .unexpectedContinuation => 5
  | .sequenceGapOrDuplicate => 6
  | .frameTooLarge => 7
  | .capacityExceeded => 8
  | .abortedByCaller => 9

/-- The code that `st_field` holds (R28, R224). -/
def fieldCode : EnumField → BitVec 2
  | .seq => 0
  | .protocolId => 1
  | .emiId => 2
  | .messageCode => 3

/-! ## The failure records, by reason (R225) -/

/-- `MalformedLength`: the expected count and the actual one. -/
def malformedLength (seq expected actual : Nat) : FailRecord := ⟨.malformedLength, seq, .seq, expected, actual⟩

/-- `UnknownEnumValue`: the field and the raw value that was not found. -/
def unknownEnumValue (seq : Nat) (field : EnumField) (raw : Nat) : FailRecord :=
  ⟨.unknownEnumValue, seq, field, 0, raw⟩

/-- `ProtocolVersionMismatch`: 0 and octet 0 of the header. -/
def protocolVersionMismatch (seq actual : Nat) : FailRecord :=
  ⟨.protocolVersionMismatch, seq, .seq, protocolVersion.toNat, actual⟩

/-- `HeaderLengthMismatch`: 8 and octet 1 of the header. -/
def headerLengthMismatch (seq actual : Nat) : FailRecord :=
  ⟨.headerLengthMismatch, seq, .seq, headerLength.toNat, actual⟩

/-- `UnexpectedContinuation`: 1 and the report's `seq`. -/
def unexpectedContinuation (seq : Nat) : FailRecord := ⟨.unexpectedContinuation, seq, .seq, 1, seq⟩

/-- `SequenceGapOrDuplicate`: `rx_next_seq` and the report's `seq`. -/
def sequenceGapOrDuplicate (nextSeq seq : Nat) : FailRecord := ⟨.sequenceGapOrDuplicate, seq, .seq, nextSeq, seq⟩

/-- `FrameTooLarge`: `MAX_FRAME_LEN` and the frame's length; no report, so `seq` is 0. -/
def frameTooLarge (maxFrameLen actual : Nat) : FailRecord := ⟨.frameTooLarge, 0, .seq, maxFrameLen, actual⟩

/-- `CapacityExceeded`: the capacity and the payload's length; no report, so `seq` is 0. -/
def capacityExceeded (capacity actual : Nat) : FailRecord := ⟨.capacityExceeded, 0, .seq, capacity, actual⟩

/-- `AbortedByCaller`: `rx_body_length` and `rx_count`; `RX.ABORT` has no report, so `seq` is 0 (R196). -/
def abortedByCaller (bodyLength count : Nat) : FailRecord := ⟨.abortedByCaller, 0, .seq, bodyLength, count⟩

end Sys2Proof.Machine
end

