-- ==== Sys2Proof/Machine/Operands.lean ====
section
/-! DEFINITION. The domains of operands: catalog members (spec/40_catalogs.md R100), sequence numbers (R106) and the
capacity of a segment (R104), and which operands the spec puts outside an operation's domain. -/

namespace Sys2Proof.Machine

open Sys2Proof

/-- `decode(raw)` of a catalog: its member, or `UnknownEnumValue(raw)`; "this must never silently map to a default"
(R100). -/
def catalogDecode {α : Type} : List (Octet × α) → Octet → Lookup α
  | [], raw => .unknownEnumValue raw.toNat
  | (code, m) :: t, raw => if code = raw then .ok m else catalogDecode t raw

/-- `code(m)` of a catalog: total on members, and nothing for a name that is no member (R100). -/
def catalogCode {α : Type} [DecidableEq α] : List (Octet × α) → α → Option Octet
  | [], _ => none
  | (code, m') :: t, m => if m' = m then some code else catalogCode t m

/-- The kind of a sequence number: it alone selects the capacity (R106, C2 of spec/90_conflicts.md). -/
inductive SegmentKind where
  | first
  | continuation
  deriving DecidableEq, Repr

/-- `kind(seq)` (R106). -/
def kind (c : Config) (seq : Nat) : Lookup SegmentKind :=
  if seq = 1 then .ok .first
  else if 2 ≤ seq ∧ seq ≤ c.seqMax then .ok .continuation
  else .unknownEnumValue seq

/-- `capacity(is_partial)` (R104): 52 for a first segment, 61 for a continuation. -/
def capacity (isPartial : Bool) : Nat := if isPartial then capCont else capFirst

/-- Both identifiers are members of their tables; otherwise the request is outside the domain of `HDR.ENC` and
`TX.FRAG` and is refused (R121, R160, U8). -/
def membersOk (c : Config) (pid : ProtocolId) (emi : EmiId) : Bool :=
  decide (Config.isMember c.pidTable pid) && decide (Config.isMember c.emiTable emi)

/-- `NREP(L)`: how many reports a frame of `L` octets takes (R9, R163). -/
def nrep (len : Nat) : Nat :=
  if len ≤ capFirst then 1 else 1 + (len - capFirst + (capCont - 1)) / capCont

end Sys2Proof.Machine
end

