-- ==== Sys2Proof/Machine/Ops.lean ====
section
/-! DEFINITION. The operations the meanings share: buffer access (spec/00_scope.md R11), answering, the saturating
counter (spec/10_state.md R29), the one failure entry of the receive half (spec/60_exceptions.md R228), and refusal. -/

namespace Sys2Proof.Machine

open Sys2Proof

/-- `MemRead(buf, off, n)` = `buf[off : off + n]` (R11). -/
def memRead (buf : List Octet) (off n : Nat) : List Octet := slice buf off (off + n)

/-- `MemWrite(buf, off, n, v)` replaces `n` octets of `buf` from `off` by the `n`-octet sequence `v` (R11); written at
the end of the list that holds `rx_buf` it extends the list (R25). -/
def memWrite (buf : List Octet) (off : Nat) (v : List Octet) : List Octet :=
  buf.take off ++ v ++ buf.drop (off + v.length)

/-- End the operation with response `r`, leaving the engine's state alone (R11, `return v`). -/
def respond (r : Response) (s : State) : State := { s with response := some r }

/-- No operation is requested: the engine "does nothing unless an operation is requested" and "keeps all its state while
idle" (R226, R236); it answers nothing. -/
def stayIdle (s : State) : State := { s with response := none }

/-- End a receive operation with outcome `o`, the receive half left in `x` (R181). -/
def rxReturn (x : RxContext) (o : RxOutcome) (s : State) : State :=
  { s with rx := x, response := some (.rx o) }

/-- The saturating increment of a `w`-bit counter: it stays at 2^`w` − 1 and never wraps (R29, U20). -/
def satInc (w n : Nat) : Nat := if n + 1 < 2 ^ w then n + 1 else 2 ^ w - 1

/-- THE FAILURE ENTRY of the receive half, `fail(r)` (R194, R195, R228): `rx_state` becomes `IDLE`, the in-flight
transfer is discarded, `rx_fail_count` is incremented, the record is latched, the outcome is `Fail(r)`. There is
no handler, no saved address and no mode; and there is no return operation beside it, because after a failure the
engine is in `IDLE` and takes the next operation (R231). -/
def failEntry (r : FailRecord) (s : State) : State :=
  { s with
    rx := .idle
    rxFailCount := satInc s.cfg.cntW s.rxFailCount
    status := r
    response := some (.rx (.fail r)) }

end Sys2Proof.Machine
end

