-- ==== Sys2Proof/Machine/Control.lean ====
section
/-! DEFINITION. The reset input (spec/70_reset_and_hazards.md R260) and the reserved select code (R82). -/

namespace Sys2Proof.Machine

open Sys2Proof

/-- `RESET` (R260): the state of R34, whatever it was; no failure record, no count, no response. The parameters are
not changed (R261) and the caller's later requests still stand. -/
def execReset (s : State) : Host.Outcome State Fault Refusal :=
  .next { s with rx := .idle, rxFailCount := 0, status := .none, response := none }

/-- `RESERVED.0` (R82): "A request with `op` = 0 is refused: the model gives it no step, it changes no state and has
no response." -/
def execReserved0 (_s : State) : Host.Outcome State Fault Refusal := .refused .reservedSelect

end Sys2Proof.Machine
end

