-- ==== Sys2Proof/Machine/BodyCodec.lean ====
section
/-! DEFINITION. The Transfer Body Codec (spec/42_body_codec.md): `BODY.ENC`, `BODY.DEC`, `BODY.TOB`, `BODY.MC`,
`BODY.LEN`. -/

namespace Sys2Proof.Machine

open Sys2Proof

/-- `BODY.ENC` (R141): "valid only if `len(data.payload) <= capacity(data.is_partial)`". -/
def bodyEnc (payload : List Octet) (isPartial : Bool) : Except FailRecord BodyFields :=
  if payload.length ≤ capacity isPartial then .ok { payload := payload, isPartial := isPartial }
  else .error (capacityExceeded (capacity isPartial) payload.length)

/-- `BODY.DEC` (R142): the length tells the kind; any length but 52 and 61 is malformed, the one number recorded as
expected being 52 (C11 of spec/90_conflicts.md). -/
def bodyDec (bytes : List Octet) : Except FailRecord BodyFields :=
  if bytes.length = capFirst then .ok { payload := bytes, isPartial := false }
  else if bytes.length = capCont then .ok { payload := bytes, isPartial := true }
  else .error (malformedLength 0 capFirst bytes.length)

/-- The `Body` value that a codec's result is: the bare `invalid` when it failed (R27). -/
def toBody : Except FailRecord BodyFields → Body
  | .ok f => .valid f
  | .error _ => .invalid

/-- `BODY.TOB` (R143): the payload padded with zeros to the width of `isPartial`, nothing for an invalid body or a
payload over that width. -/
def bodyTob (body : Body) (isPartial : Bool) : List Octet :=
  match body with
  | .invalid => []
  | .valid f =>
    if f.payload.length > capacity isPartial then []
    else f.payload ++ zeros (capacity isPartial - f.payload.length)

/-- `BODY.MC` (R144): the first octet of a valid, non-empty first segment. -/
def bodyMc : Body → Option Octet
  | .invalid => none
  | .valid f => if !f.isPartial && decide (0 < f.payload.length) then some (octetAt f.payload 0) else none

/-- `BODY.LEN` (R145). -/
def bodyLen : Body → Option Nat
  | .invalid => none
  | .valid f => some f.payload.length

/-- The response of an operation that makes a body (R141, R142). -/
def bodyResponse : Except FailRecord BodyFields → Response
  | .ok f => .body (.valid f) none
  | .error r => .body .invalid (some r)

/-- `BODY.ENC` as an operation (R141). -/
def execBodyEnc (payload : List Octet) (isPartial : Bool) (s : State) : Host.Outcome State Fault Refusal :=
  .next (respond (bodyResponse (bodyEnc payload isPartial)) s)

/-- `BODY.DEC` as an operation (R142). -/
def execBodyDec (bytes : List Octet) (s : State) : Host.Outcome State Fault Refusal :=
  .next (respond (bodyResponse (bodyDec bytes)) s)

/-- `BODY.TOB` as an operation (R143). -/
def execBodyTob (body : Body) (isPartial : Bool) (s : State) : Host.Outcome State Fault Refusal :=
  .next (respond (.octets (bodyTob body isPartial)) s)

/-- `BODY.MC` as an operation (R144). -/
def execBodyMc (body : Body) (s : State) : Host.Outcome State Fault Refusal :=
  .next (respond (.emiMessageCode (bodyMc body)) s)

/-- `BODY.LEN` as an operation (R145). -/
def execBodyLen (body : Body) (s : State) : Host.Outcome State Fault Refusal :=
  .next (respond (.length (bodyLen body)) s)

end Sys2Proof.Machine
end

