-- ==== Sys2Proof/Machine/Catalogs.lean ====
section
/-! DEFINITION. The Field Catalogs (spec/40_catalogs.md): `PID.DEC`, `EMI.DEC`, `MC.DEC`, `CAP`. -/

namespace Sys2Proof.Machine

open Sys2Proof

/-- `PID.DEC` (R101). -/
def pidDec (c : Config) (code : Octet) : Lookup ProtocolId := catalogDecode c.pidTable code

/-- `EMI.DEC` (R102). -/
def emiDec (c : Config) (code : Octet) : Lookup EmiId := catalogDecode c.emiTable code

/-- `MC.DEC` (R103). -/
def mcDec (c : Config) (code : Octet) : Lookup MessageCode := catalogDecode c.mcTable code

/-- `CAP` (R104). -/
def cap (c : Config) (seq : Nat) : Lookup Nat :=
  match kind c seq with
  | .ok .first => .ok capFirst
  | .ok .continuation => .ok capCont
  | .unknownEnumValue raw => .unknownEnumValue raw

/-- `PID.DEC` as an operation (R101). -/
def execPidDec (code : Octet) (s : State) : Host.Outcome State Fault Refusal :=
  .next (respond (.protocolId (pidDec s.cfg code)) s)

/-- `EMI.DEC` as an operation (R102). -/
def execEmiDec (code : Octet) (s : State) : Host.Outcome State Fault Refusal :=
  .next (respond (.emiId (emiDec s.cfg code)) s)

/-- `MC.DEC` as an operation (R103). -/
def execMcDec (code : Octet) (s : State) : Host.Outcome State Fault Refusal :=
  .next (respond (.messageCode (mcDec s.cfg code)) s)

/-- `CAP` as an operation (R104). R106 classifies every integer, so no `seq` is turned away (DEDUCED, log 13). -/
def execCap (seq : Nat) (s : State) : Host.Outcome State Fault Refusal :=
  .next (respond (.capacity (cap s.cfg seq)) s)

end Sys2Proof.Machine
end

