-- ==== Sys2Proof/Machine/HeaderCodec.lean ====
section
/-! DEFINITION. The Transfer Header Codec (spec/41_header_codec.md): `HDR.ENC`, `HDR.DEC`, `HDR.TOB`. -/

namespace Sys2Proof.Machine

open Sys2Proof

/-- `HDR.ENC` (R121): "always succeeds; produces a header marked valid". -/
def hdrEnc (bodyLength : U16) (pid : ProtocolId) (emi : EmiId) : Header :=
  .valid
    { protocolVersion := protocolVersion
      headerLength := headerLength
      bodyLength := bodyLength
      protocolId := pid
      emiId := emi
      manufacturerCode := mfrStandard }

/-- The tests of `HDR.DEC` on the fields of 8 octets, in the order of R122: `protocol_id`, `emi_id`, version, header
length. The first that fails is the diagnostic. -/
def hdrCheck (c : Config) (h : HdrImage) : Except FailRecord HeaderFields :=
  match pidDec c h.protocolId, emiDec c h.emiId with
  | .unknownEnumValue raw, _ => .error (unknownEnumValue 0 .protocolId raw)
  | .ok _, .unknownEnumValue raw => .error (unknownEnumValue 0 .emiId raw)
  | .ok pid, .ok emi =>
    if h.protocolVersion ≠ protocolVersion then .error (protocolVersionMismatch 0 h.protocolVersion.toNat)
    else if h.headerLength ≠ headerLength then .error (headerLengthMismatch 0 h.headerLength.toNat)
    else
      .ok
        { protocolVersion := h.protocolVersion
          headerLength := h.headerLength
          bodyLength := h.bodyLength
          protocolId := pid
          emiId := emi
          manufacturerCode := h.manufacturerCode }

/-- `HDR.DEC` (R122): the header's fields, or the diagnostic of an invalid header. -/
def hdrDec (c : Config) (bytes : List Octet) : Except FailRecord HeaderFields :=
  if bytes.length ≠ headerLen then .error (malformedLength 0 headerLen bytes.length)
  else hdrCheck c (.ofOctets bytes)

/-- `HDR.TOB` (R123): 8 octets for a valid header, nothing for an invalid one. `none` when an identifier has no code,
that is, is no member of its table (R100): such a header is outside the operation's domain (DEDUCED, log 8). -/
def hdrTob (c : Config) : Header → Option (List Octet)
  | .invalid => some []
  | .valid f =>
    match catalogCode c.pidTable f.protocolId, catalogCode c.emiTable f.emiId with
    | some pid, some emi =>
      some [f.protocolVersion, f.headerLength, hi f.bodyLength, lo f.bodyLength, pid, emi,
        hi f.manufacturerCode, lo f.manufacturerCode]
    | _, _ => none

/-- The response of an operation that makes a header (R122). -/
def headerResponse : Except FailRecord HeaderFields → Response
  | .ok f => .header (.valid f) none
  | .error r => .header .invalid (some r)

/-- `HDR.ENC` as an operation (R121); an identifier outside its table is refused (D29). -/
def execHdrEnc (bodyLength : U16) (pid : ProtocolId) (emi : EmiId) (s : State) :
    Host.Outcome State Fault Refusal :=
  if membersOk s.cfg pid emi then .next (respond (.header (hdrEnc bodyLength pid emi) none) s)
  else .refused .notAMember

/-- `HDR.DEC` as an operation (R122). -/
def execHdrDec (bytes : List Octet) (s : State) : Host.Outcome State Fault Refusal :=
  .next (respond (headerResponse (hdrDec s.cfg bytes)) s)

/-- `HDR.TOB` as an operation (R123). -/
def execHdrTob (hdr : Header) (s : State) : Host.Outcome State Fault Refusal :=
  match hdrTob s.cfg hdr with
  | some b => .next (respond (.octets b) s)
  | none => .refused .notAMember

end Sys2Proof.Machine
end

