-- ==== Sys2Proof/Machine/Fragmenter.lean ====
section
/-! DEFINITION. The Frame Fragmenter (spec/43_fragmenter.md): `TX.FRAG`. It reads and writes no state (R166). -/

namespace Sys2Proof.Machine

open Sys2Proof

/-- The `while` loop of R161 from offset `off` and sequence value `seq`: the continuation reports. The first argument
bounds its turns; the frame's length is always enough, since each turn moves `off` on by 61. `seq` is a natural
number: where the caller has not set up R262 (c) it can pass `SEQ_MAX` and even the `SEQ_W` bits of the side-band, and
the spec says nothing of that (DESIGN CHOICE, log 18). -/
def fragLoop : Nat → List Octet → Nat → Nat → List (Nat × List Octet)
  | 0, _, _, _ => []
  | n + 1, frame, off, seq =>
    if off < frame.length then
      (seq, bodyTob (toBody (bodyEnc (slice frame off (off + capCont)) true)) true ++ zeros 3)
        :: fragLoop n frame (off + capCont) (seq + 1)
    else []

/-- The reports of an accepted frame, given the octets of its header (R161). -/
def fragReports (header frame : List Octet) : List (Nat × List Octet) :=
  (1, header ++ bodyTob (toBody (bodyEnc (slice frame 0 capFirst) false)) false ++ zeros 4)
    :: fragLoop frame.length frame capFirst 2

/-- `TX.FRAG` (R161, R162): all the reports of a frame, or a failure and none of them; the length is tested before
anything is built, so `body_length` never wraps. `none` when `HDR.TOB` finds no code for an identifier. -/
def txFrag (c : Config) (pid : ProtocolId) (emi : EmiId) (frame : List Octet) : Option Response :=
  if frame.length > c.maxFrameLen then some (.txFail (frameTooLarge c.maxFrameLen frame.length))
  else
    match hdrTob c (hdrEnc (BitVec.ofNat 16 frame.length) pid emi) with
    | some header => some (.reports (fragReports header frame))
    | none => none

/-- `TX.FRAG` as an operation (R161); an identifier outside its table is refused, whatever the frame (R160, D29). It runs also
where R262 (c) does not hold (DESIGN CHOICE, log 18). -/
def execTxFrag (pid : ProtocolId) (emi : EmiId) (frame : List Octet) (s : State) :
    Host.Outcome State Fault Refusal :=
  if membersOk s.cfg pid emi then
    match txFrag s.cfg pid emi frame with
    | some r => .next (respond r s)
    | none => .refused .notAMember
  else .refused .notAMember

end Sys2Proof.Machine
end

