-- ==== Sys2Proof/Machine/Reassembler.lean ====
section
/-! DEFINITION. The Frame Reassembler (spec/44_reassembler.md): `RX.REPORT` (R195) and `RX.ABORT` (R196). -/

namespace Sys2Proof.Machine

open Sys2Proof

/-- The transfer that an accepted first report opens (R187). -/
def openTransfer (h : HeaderFields) (payload : List Octet) : Transfer where
  bodyLength := h.bodyLength
  count := capFirst
  nextSeq := 2
  buf := memWrite [] 0 payload
  pid := h.protocolId
  emi := h.emiId
  mfr := h.manufacturerCode

/-- The `IDLE` branch of R195 after the tests of length and domain: R188, R186, R187. -/
def rxIdle (seq : Nat) (report : List Octet) (s : State) : State :=
  if seq ≠ 1 then failEntry (unexpectedContinuation seq) s
  else
    match hdrDec s.cfg (memRead report 0 8), bodyDec (memRead report 8 52) with
    | .error r, _ => failEntry { r with seq := seq } s
    | .ok _, .error r => failEntry { r with seq := seq } s
    | .ok h, .ok b =>
      if h.bodyLength.toNat ≤ capFirst then
        rxReturn .idle
          (.frame (slice b.payload 0 h.bodyLength.toNat) h.protocolId h.emiId h.manufacturerCode) s
      else rxReturn (.collecting (openTransfer h b.payload)) .noFrame s

/-- How many octets of a continuation report's body belong to the frame: `take` of R189. -/
def takeCount (t : Transfer) : Nat := min capCont (t.bodyLength.toNat - t.count)

/-- The transfer with a continuation report's payload appended (R189). -/
def appendSegment (t : Transfer) (payload : List Octet) : Transfer :=
  { t with
    buf := memWrite t.buf t.count (slice payload 0 (takeCount t))
    count := t.count + takeCount t }

/-- The `COLLECTING` branch of R195 after the tests of length and domain: R191, R192, R189. -/
def rxCollecting (t : Transfer) (seq : Nat) (report : List Octet) (s : State) : State :=
  if seq ≠ t.nextSeq then failEntry (sequenceGapOrDuplicate t.nextSeq seq) s
  else
    match bodyDec (memRead report 0 61) with
    | .error r => failEntry { r with seq := seq } s
    | .ok b =>
      let t' := appendSegment t b.payload
      if t'.count = t'.bodyLength.toNat then
        rxReturn .idle (.frame (slice t'.buf 0 t'.bodyLength.toNat) t'.pid t'.emi t'.mfr) s
      else rxReturn (.collecting { t' with nextSeq := t'.nextSeq + 1 }) .noFrame s

/-- `RX.REPORT` as a whole (R195), its tests in the order of R183. -/
def rxReport (seq : Nat) (report : List Octet) (s : State) : State :=
  if report.length ≠ reportLen then failEntry (malformedLength seq reportLen report.length) s
  else if seq = 0 ∨ s.cfg.seqMax < seq then failEntry (unknownEnumValue seq .seq seq) s
  else
    match s.rx with
    | .idle => rxIdle seq report s
    | .collecting t => rxCollecting t seq report s

/-- A report taken from the side-band and the report input: a `seq` of more than `SEQ_W` bits cannot stand there
(R74, R182; DEDUCED, log 9). -/
def takeReport (seq : Nat) (report : List Octet) (s : State) : Host.Outcome State Fault Refusal :=
  if seqFits s.cfg seq then .next (rxReport seq report s) else .refused .seqNotOnSideBand

/-- `RX.REPORT` as an operation (R195). -/
def execRxReport (seq : Nat) (report : List Octet) (s : State) : Host.Outcome State Fault Refusal :=
  takeReport seq report s

/-- `RX.ABORT` as an operation (R196): the caller's deadline has expired. -/
def execRxAbort (s : State) : Host.Outcome State Fault Refusal :=
  match s.rx with
  | .collecting t => .next (failEntry (abortedByCaller t.bodyLength.toNat t.count) s)
  | .idle => .next (rxReturn .idle .noFrame s)

end Sys2Proof.Machine
end

