-- ==== Sys2Proof/Machine/Wire.lean ====
section
/-! DEFINITION. The three wire formats as inputs of the engine (spec/30_encoding.md R71 to R73, R85): what happens
when data in one of them arrives. A header image goes through the header decoder (R122: "the octets are in format
`HDR`"), a report through the reassembler (R195: "the report is in format `RPT.FIRST` when `seq` = 1 and `RPT.CONT`
otherwise"). DESIGN CHOICE, log 5. -/

namespace Sys2Proof.Machine

open Sys2Proof

/-- `HDR`: the header that 8 octets of the format carry (R71, R122). -/
def execHdr (image : HdrImage) (s : State) : Host.Outcome State Fault Refusal :=
  .next (respond (headerResponse (hdrDec s.cfg image.octets)) s)

/-- `RPT.FIRST`: the report with side-band 1 (R72, R195). -/
def execRptFirst (header : HdrImage) (body pad : List Octet) (s : State) : Host.Outcome State Fault Refusal :=
  takeReport 1 (header.octets ++ body ++ pad) s

/-- `RPT.CONT`: the report with its side-band (R73, R195). -/
def execRptCont (seq : Nat) (body pad : List Octet) (s : State) : Host.Outcome State Fault Refusal :=
  takeReport seq (body ++ pad) s

end Sys2Proof.Machine
end

