-- ==== Sys2Proof/Machine/Dispatch.lean ====
section
/-! DEFINITION. One arm per constructor of `Instr`: the meaning of each operation and wire format. -/

namespace Sys2Proof.Machine

open Sys2Proof

def exec (i : Instr) (s : State) : Host.Outcome State Fault Refusal :=
  match i with
  | .pidDec code => Sys2Proof.Machine.execPidDec code s
  | .emiDec code => Sys2Proof.Machine.execEmiDec code s
  | .mcDec code => Sys2Proof.Machine.execMcDec code s
  | .cap seq => Sys2Proof.Machine.execCap seq s
  | .hdrEnc bodyLength pid emi => Sys2Proof.Machine.execHdrEnc bodyLength pid emi s
  | .hdrDec bytes => Sys2Proof.Machine.execHdrDec bytes s
  | .hdrTob hdr => Sys2Proof.Machine.execHdrTob hdr s
  | .bodyEnc payload isPartial => Sys2Proof.Machine.execBodyEnc payload isPartial s
  | .bodyDec bytes => Sys2Proof.Machine.execBodyDec bytes s
  | .bodyTob body isPartial => Sys2Proof.Machine.execBodyTob body isPartial s
  | .bodyMc body => Sys2Proof.Machine.execBodyMc body s
  | .bodyLen body => Sys2Proof.Machine.execBodyLen body s
  | .txFrag pid emi frame => Sys2Proof.Machine.execTxFrag pid emi frame s
  | .rxReport seq report => Sys2Proof.Machine.execRxReport seq report s
  | .rxAbort => Sys2Proof.Machine.execRxAbort s
  | .reset => Sys2Proof.Machine.execReset s
  | .reserved0 => Sys2Proof.Machine.execReserved0 s
  | .hdr image => Sys2Proof.Machine.execHdr image s
  | .rptFirst header body pad => Sys2Proof.Machine.execRptFirst header body pad s
  | .rptCont seq body pad => Sys2Proof.Machine.execRptCont seq body pad s

end Sys2Proof.Machine
end

