-- ==== Sys2Proof/Machine/Step.lean ====
section
/-! DEFINITION. One step: the engine performs the caller's next request (spec/00_scope.md R3, spec/20_memory.md R55,
R59), and the placing of a table word as that next request. -/

namespace Sys2Proof.Machine

open Sys2Proof

/-- With no request the engine stays idle (R226, R236). Otherwise it takes the oldest request off the caller's stream and
performs it, whole (R55, R59). The reset input at 0 requests nothing, so the engine stays idle at it too (R85, R226;
log 15). -/
def step (s : State) : Host.Outcome State Fault Refusal :=
  match s.requests with
  | [] => .next (stayIdle s)
  | r :: rest =>
    match decode r with
    | .error .resetNotAsserted => .next (stayIdle { s with requests := rest })
    | .ok i => exec i { s with requests := rest }

/-- `s` with the request of a table word as the next one to be performed. -/
def State.withFetchWord (s : State) (nbits w : Nat) : State :=
  match requestOfWord nbits w with
  | none => s
  | some r => { s with requests := r :: s.requests }

end Sys2Proof.Machine
end

