-- ==== Sys2Proof/Machine/Text.lean ====
section
/-! DEFINITION. The text notation of operations and responses (spec/30_encoding.md R83), one operation a line:
`<mnemonic> <name>=<value> ... [-> <response>]`. Where R83 leaves a form open: DESIGN CHOICE, log 16. -/

namespace Sys2Proof.Machine

open Sys2Proof

/-- The row's mnemonic in spec/opcode_table.json (R13, R80). -/
def mnemonic : Instr → String
  | .pidDec _ => "PID.DEC"
  | .emiDec _ => "EMI.DEC"
  | .mcDec _ => "MC.DEC"
  | .cap _ => "CAP"
  | .hdrEnc _ _ _ => "HDR.ENC"
  | .hdrDec _ => "HDR.DEC"
  | .hdrTob _ => "HDR.TOB"
  | .bodyEnc _ _ => "BODY.ENC"
  | .bodyDec _ => "BODY.DEC"
  | .bodyTob _ _ => "BODY.TOB"
  | .bodyMc _ => "BODY.MC"
  | .bodyLen _ => "BODY.LEN"
  | .txFrag _ _ _ => "TX.FRAG"
  | .rxReport _ _ => "RX.REPORT"
  | .rxAbort => "RX.ABORT"
  | .reset => "RESET"
  | .reserved0 => "RESERVED.0"
  | .hdr _ => "HDR"
  | .rptFirst _ _ _ => "RPT.FIRST"
  | .rptCont _ _ _ => "RPT.CONT"

/-! ## Values -/

/-- Text between the two brace characters (numbers 123 and 125). -/
def braced (t : String) : String := String.singleton (Char.ofNat 123) ++ t ++ String.singleton (Char.ofNat 125)

/-- One hexadecimal digit. -/
def hexDigit (n : Nat) : String :=
  (["0", "1", "2", "3", "4", "5", "6", "7", "8", "9", "A", "B", "C", "D", "E", "F"][n % 16]?).getD "0"

/-- An octet as two hexadecimal digits. -/
def hexOctet (o : Octet) : String := hexDigit (o.toNat / 16) ++ hexDigit o.toNat

/-- A `u16` as `0x` and four hexadecimal digits. -/
def hexU16 (v : U16) : String :=
  "0x" ++ hexDigit (v.toNat / 4096) ++ hexDigit (v.toNat / 256) ++ hexDigit (v.toNat / 16) ++ hexDigit v.toNat

/-- Octets in braces, separated by spaces. -/
def octetsText (b : List Octet) : String := braced (" ".intercalate (b.map hexOctet))

/-- `true` or `false`. -/
def boolText : Bool → String
  | true => "true"
  | false => "false"

/-- A member name of `PID_TABLE` (R8). -/
def pidText : ProtocolId → String
  | .knxTunnel => "KNX_TUNNEL"
  | .mBusTunnel => "M_BUS_TUNNEL"
  | .batibusTunnel => "BATIBUS_TUNNEL"
  | .busAccessServerFeatureService => "BUS_ACCESS_SERVER_FEATURE_SERVICE"
  | .other n => "PID_" ++ toString n

/-- A member name of `EMI_TABLE` (R8). -/
def emiText : EmiId → String
  | .emi1 => "EMI1"
  | .emi2 => "EMI2"
  | .cemi => "CEMI"

/-- A member name of `MC_TABLE` (R8). -/
def mcText : MessageCode → String
  | .lDataReq => "L_DATA_REQ"
  | .lDataInd => "L_DATA_IND"
  | .lDataCon => "L_DATA_CON"
  | .other n => "MC_" ++ toString n

/-- A header value, as the examples of spec/41_header_codec.md write it. -/
def headerText : Header → String
  | .invalid => "invalid"
  | .valid f =>
    "Header" ++ braced (", ".intercalate ["valid", toString f.protocolVersion.toNat, toString f.headerLength.toNat,
      toString f.bodyLength.toNat, pidText f.protocolId, emiText f.emiId, hexU16 f.manufacturerCode])

/-- A body value, as the examples of spec/42_body_codec.md write it. -/
def bodyText : Body → String
  | .invalid => "invalid"
  | .valid f => "Body" ++ braced (", ".intercalate ["valid", octetsText f.payload, boolText f.isPartial])

/-! ## Operations -/

/-- A mnemonic followed by its `name=value` pairs. -/
def lineText (m : String) (operands : List (String × String)) : String :=
  " ".intercalate (m :: operands.map fun p => p.1 ++ "=" ++ p.2)

/-- The operand names and values of an operation (R83). The wire formats and the reserved select are no operations of
R83 and have none. -/
def operandsText : Instr → List (String × String)
  | .pidDec code => [("code", "0x" ++ hexOctet code)]
  | .emiDec code => [("code", "0x" ++ hexOctet code)]
  | .mcDec code => [("code", "0x" ++ hexOctet code)]
  | .cap seq => [("seq", toString seq)]
  | .hdrEnc bl pid emi => [("body_length", toString bl.toNat), ("pid", pidText pid), ("emi", emiText emi)]
  | .hdrDec bytes => [("bytes", octetsText bytes)]
  | .hdrTob hdr => [("hdr", headerText hdr)]
  | .bodyEnc payload isPartial => [("payload", octetsText payload), ("is_partial", boolText isPartial)]
  | .bodyDec bytes => [("bytes", octetsText bytes)]
  | .bodyTob body isPartial => [("body", bodyText body), ("is_partial", boolText isPartial)]
  | .bodyMc body => [("body", bodyText body)]
  | .bodyLen body => [("body", bodyText body)]
  | .txFrag pid emi frame => [("pid", pidText pid), ("emi", emiText emi), ("frame", octetsText frame)]
  | .rxReport seq report => [("seq", toString seq), ("report", octetsText report)]
  | .rxAbort | .reset | .reserved0 | .hdr _ | .rptFirst _ _ _ | .rptCont _ _ _ => []

/-- The line of an operation (R83). -/
def instrText (i : Instr) : String := lineText (mnemonic i) (operandsText i)

/-- The line of the pseudo-operation `FEED` (R84). -/
def feedText (reports : List (Nat × List Octet)) : String :=
  lineText "FEED" [("reports", "[" ++ ", ".intercalate (reports.map fun p =>
    "(" ++ toString p.1 ++ ", " ++ octetsText p.2 ++ ")") ++ "]")]

/-- The line of the pseudo-operation `LOOPBACK` (R84). -/
def loopbackText (pid : ProtocolId) (emi : EmiId) (frame : List Octet) : String :=
  lineText "LOOPBACK" [("pid", pidText pid), ("emi", emiText emi), ("frame", octetsText frame)]

/-! ## Responses -/

/-- The name of a reason (R221). -/
def reasonText : Reason → String
  | .none => "None"
  | .malformedLength => "MalformedLength"
  | .unknownEnumValue => "UnknownEnumValue"
  | .protocolVersionMismatch => "ProtocolVersionMismatch"
  | .headerLengthMismatch => "HeaderLengthMismatch"
  | .unexpectedContinuation => "UnexpectedContinuation"
  | .sequenceGapOrDuplicate => "SequenceGapOrDuplicate"
  | .frameTooLarge => "FrameTooLarge"
  | .capacityExceeded => "CapacityExceeded"
  | .abortedByCaller => "AbortedByCaller"

/-- The name of a field (R224). -/
def fieldText : EnumField → String
  | .seq => "seq"
  | .protocolId => "protocol_id"
  | .emiId => "emi_id"
  | .messageCode => "message code"

/-- A failure, as the examples write it: the raw value for an unknown enumeration value, the two counts otherwise. -/
def recordText (r : FailRecord) : String :=
  match r.reason with
  | .unknownEnumValue =>
    reasonText r.reason ++ "(field = " ++ fieldText r.field ++ ", raw = " ++ toString r.actual ++ ")"
  | _ => reasonText r.reason ++ "(expected = " ++ toString r.expected ++ ", actual = " ++ toString r.actual ++ ")"

/-- `Ok(<member>)` or `Err(UnknownEnumValue(<raw>))` (R83). -/
def lookupText {α : Type} (text : α → String) : Lookup α → String
  | .ok a => "Ok(" ++ text a ++ ")"
  | .unknownEnumValue raw => "Err(UnknownEnumValue(" ++ toString raw ++ "))"

/-- `Some(v)` or `None` (R11). -/
def optionText {α : Type} (text : α → String) : Option α → String
  | some a => "Some(" ++ text a ++ ")"
  | none => "None"

/-- What stands after `->` (R83). -/
def responseText : Response → String
  | .protocolId r => lookupText pidText r
  | .emiId r => lookupText emiText r
  | .messageCode r => lookupText mcText r
  | .capacity r => lookupText toString r
  | .header h none => headerText h
  | .header h (some r) => headerText h ++ ", " ++ recordText r
  | .body b none => bodyText b
  | .body b (some r) => bodyText b ++ ", " ++ recordText r
  | .octets b => octetsText b
  | .emiMessageCode c => optionText (fun o => "0x" ++ hexOctet o) c
  | .length n => optionText toString n
  | .reports rs => "Ok([" ++ ", ".intercalate (rs.map fun p =>
      "(" ++ toString p.1 ++ ", " ++ octetsText p.2 ++ ")") ++ "])"
  | .txFail r => "Fail(" ++ recordText r ++ ")"
  | .rx .noFrame => "NoFrame"
  | .rx (.frame f pid emi mfr) =>
    "Frame(" ++ octetsText f ++ ", " ++ pidText pid ++ ", " ++ emiText emi ++ ", " ++ hexU16 mfr ++ ")"
  | .rx (.fail r) => "Fail(" ++ recordText r ++ ")"

end Sys2Proof.Machine
end

