-- ==== Sys2Proof/Machine/Instances.lean ====
section
/-! DEFINITION. Several engines (spec/60_exceptions.md R235): "a product of independent engine states". -/

namespace Sys2Proof.Machine

open Sys2Proof

/-- One step of engine `k` of several. The others are not touched: "no shared mutable state between them" (R61,
R235). Where there is no engine `k`, nothing happens (log 14). -/
def stepAt (k : Nat) (engines : List State) : Host.Outcome (List State) Fault Refusal :=
  match engines[k]? with
  | none => .next engines
  | some s =>
    match step s with
    | .next s' => .next (engines.set k s')
    | .fault f => .fault f
    | .refused r => .refused r

end Sys2Proof.Machine
end

