-- ==== Sys2Proof/Machine/Pseudo.lean ====
section
/-! DEFINITION. Sequences of operations, and the two pseudo-operations `FEED` and `LOOPBACK` of spec/30_encoding.md R84. -/

namespace Sys2Proof.Machine

open Sys2Proof

/-- Operations performed one after another, each seeing the state the previous one left (R59 (a)): their responses in
order, and the state at the end. -/
def runOps : List Instr → State → Host.Outcome (List Response × State) Fault Refusal
  | [], s => .next ([], s)
  | i :: is, s =>
    match exec i s with
    | .next s' =>
      match runOps is s' with
      | .next (rs, s'') => .next (s'.response.toList ++ rs, s'')
      | .fault f => .fault f
      | .refused r => .refused r
    | .fault f => .fault f
    | .refused r => .refused r

/-- `FEED reports=<list>`: one `RX.REPORT` per pair, in list order (R84). -/
def feed (reports : List (Nat × List Octet)) : List Instr := reports.map fun p => .rxReport p.1 p.2

/-- `LOOPBACK pid= emi= frame=`: `TX.FRAG`, followed by `FEED` of its result when that is a list of reports (R84).
The responses start with `TX.FRAG`'s own. -/
def loopback (pid : ProtocolId) (emi : EmiId) (frame : List Octet) (s : State) :
    Host.Outcome (List Response × State) Fault Refusal :=
  match exec (.txFrag pid emi frame) s with
  | .next s' =>
    match s'.response with
    | some (.reports rs) =>
      match runOps (feed rs) s' with
      | .next (answers, s'') => .next (.reports rs :: answers, s'')
      | .fault f => .fault f
      | .refused r => .refused r
    | other => .next (other.toList, s')
  | .fault f => .fault f
  | .refused r => .refused r

end Sys2Proof.Machine
end

