-- ==== Sys2Proof/Safety.lean ====
section
/-! DEFINITION. What a sound state and a safe run are, in the terms the statements use. -/

namespace Sys2Proof.Machine

open Sys2Proof

/-- The invariant of the receive context in `COLLECTING` (R30), with the sizes of its registers (R22 to R26): the list
that holds `rx_buf` is `rx_count` long, and the two identifiers are members of their tables. -/
structure Transfer.Inv (c : Config) (t : Transfer) : Prop where
  bodyLength_gt : capFirst < t.bodyLength.toNat
  nextSeq_ge : 2 ≤ t.nextSeq
  nextSeq_le : t.nextSeq ≤ c.seqMax + 1
  count_eq : t.count = capFirst + capCont * (t.nextSeq - 2)
  count_lt : t.count < t.bodyLength.toNat
  count_le : t.count ≤ c.rxBufLen
  buf_length : t.buf.length = t.count
  pid_member : Config.isMember c.pidTable t.pid
  emi_member : Config.isMember c.emiTable t.emi

/-- A reason that a failing `RX.REPORT` or `RX.ABORT` can have, or "none yet" (R222, R228). -/
def Reason.receiveSide : Reason → Bool
  | .frameTooLarge | .capacityExceeded => false
  | .none | .malformedLength | .unknownEnumValue | .protocolVersionMismatch | .headerLengthMismatch
  | .unexpectedContinuation | .sequenceGapOrDuplicate | .abortedByCaller => true

/-- What the status registers hold between operations (R28, R224): a receive-side reason, a `seq` of `SEQ_W` bits, a
field only with `UnknownEnumValue`, and zeros while there has been no failure. -/
structure StatusInv (c : Config) (r : FailRecord) : Prop where
  receiveSide : r.reason.receiveSide = true
  seq_fits : r.seq < 2 ^ c.seqW
  field_zero : r.reason ≠ .unknownEnumValue → r.field = .seq
  none_zero : r.reason = .none → r = FailRecord.none

/-- The invariant of an engine between operations: R30 in `COLLECTING` and nothing of the context in `IDLE`, the status
registers, and the counter inside its `CNT_W` bits (R29). -/
structure EngineInv (s : State) : Prop where
  context : ∀ t, s.rx = .collecting t → t.Inv s.cfg
  status : StatusInv s.cfg s.status
  counter : s.rxFailCount < 2 ^ s.cfg.cntW

/-- What the caller must have set up (R262 (c)): the engine's own output is acceptable to its receive half. `Config.Ok`
(R8) does not ask for it, and no operation tests it: what `TX.FRAG` does without it is log 18. -/
def configReady (c : Config) : Bool := decide (nrep c.maxFrameLen ≤ c.seqMax)

/-- The engine's own state (R20), apart from its parameters and its two ports. -/
def SameEngine (s t : State) : Prop :=
  t.cfg = s.cfg ∧ t.rx = s.rx ∧ t.status = s.status ∧ t.rxFailCount = s.rxFailCount

/-- The operations that read and write none of the engine's state (R56, R166): the catalogs, the codecs, `TX.FRAG`, a
bare header image. -/
def isPure : Instr → Bool
  | .pidDec _ | .emiDec _ | .mcDec _ | .cap _ | .hdrEnc _ _ _ | .hdrDec _ | .hdrTob _ | .bodyEnc _ _ | .bodyDec _
  | .bodyTob _ _ | .bodyMc _ | .bodyLen _ | .txFrag _ _ _ | .hdr _ => true
  | .rxReport _ _ | .rxAbort | .reset | .reserved0 | .rptFirst _ _ _ | .rptCont _ _ _ => false

/-- The report, with its side-band, that an instruction hands to the reassembler, if it does. -/
def reportIn : Instr → Option (Nat × List Octet)
  | .rxReport seq report => some (seq, report)
  | .rptFirst header body pad => some (1, header.octets ++ body ++ pad)
  | .rptCont seq body pad => some (seq, body ++ pad)
  | .pidDec _ | .emiDec _ | .mcDec _ | .cap _ | .hdrEnc _ _ _ | .hdrDec _ | .hdrTob _ | .bodyEnc _ _ | .bodyDec _
  | .bodyTob _ _ | .bodyMc _ | .bodyLen _ | .txFrag _ _ _ | .rxAbort | .reset | .reserved0 | .hdr _ => none

end Sys2Proof.Machine
end

