-- ==== Sys2Proof/Certificates/Slice0/Obligations.lean ====
section
/-! DEFINITION. The statements about the engine, for the provers. Each docstring names the rule of spec/ it formalises. -/

namespace Sys2Proof.Statements

open Sys2Proof Sys2Proof.Machine

/-- `s` after an operation that answers `r` and touches nothing of the engine. -/
def answered (s : State) (r : Response) : State := { s with response := some r }

/-- `s` after a receive operation with outcome `o` that leaves the receive half in `x`, and nothing else changed. -/
def received (s : State) (x : RxContext) (o : RxOutcome) : State := { s with rx := x, response := some (.rx o) }

/-- `s` after a receive failure with record `r` (R228): `IDLE`, the counter one up but never past 2^`CNT_W` − 1, the
status registers holding `r`, the outcome `Fail(r)`, and nothing else changed. -/
def afterFailure (s : State) (r : FailRecord) : State :=
  { s with
    rx := .idle
    rxFailCount := min (s.rxFailCount + 1) (2 ^ s.cfg.cntW - 1)
    status := r
    response := some (.rx (.fail r)) }

/-- The select code `op` asks for the operation of this name, whatever the operands (R81, R13). -/
def selects (op : BitVec 4) (name : String) : Prop := ∀ bus, ∃ i, decode (.op op bus) = .ok i ∧ mnemonic i = name

/-- The failure record that a response shows, if it shows one (R220, R224). -/
def failureOf : Response → Option FailRecord
  | .header _ d => d
  | .body _ d => d
  | .txFail r => some r
  | .rx (.fail r) => some r
  | .rx (.frame _ _ _ _) | .rx .noFrame | .protocolId _ | .emiId _ | .messageCode _ | .capacity _ | .octets _
  | .emiMessageCode _ | .length _ | .reports _ => none

/-- The payload octets a report can carry, by its side-band (R72, R73). -/
def payloadPart (p : Nat × List Octet) : List Octet := if p.1 = 1 then (p.2.drop 8).take 52 else p.2.take 61

end Sys2Proof.Statements

open Sys2Proof Sys2Proof.Machine Sys2Proof.Statements

/-! ## Encoding and stepping -/

/-- R81: each of the sixteen select codes asks for its operation, whatever the operands; `RESET` is asked for by its
own input, asserted, and by no select code. -/
def Obligations.SelectCodesNameTheirOperations : Prop :=
  selects 0x0 "RESERVED.0" ∧ selects 0x1 "TX.FRAG" ∧ selects 0x2 "RX.REPORT" ∧ selects 0x3 "RX.ABORT" ∧
  selects 0x4 "HDR.ENC" ∧ selects 0x5 "HDR.DEC" ∧ selects 0x6 "HDR.TOB" ∧ selects 0x7 "BODY.ENC" ∧
  selects 0x8 "BODY.DEC" ∧ selects 0x9 "BODY.TOB" ∧ selects 0xA "BODY.MC" ∧ selects 0xB "BODY.LEN" ∧
  selects 0xC "PID.DEC" ∧ selects 0xD "EMI.DEC" ∧ selects 0xE "MC.DEC" ∧ selects 0xF "CAP" ∧
  decode (.resetPin 1) = .ok .reset ∧ ∀ op bus, decode (.op op bus) ≠ .ok .reset

/-- A few words written out from R71 to R73, R81 and R85: select codes, a 64-bit header image, a first report whose
header says `body_length` 11, a continuation report with side-band 2. Three things in it are the model's choice: the
numbering of table words by the number of their bits (log 4), the operands of a bare select word, which no encoding table
gives (log 3), and the wire rows as instructions (log 5). -/
def Obligations.WrittenOutWordsDecode : Prop :=
  decodeTableWord 8 0b0001 = some (.txFrag .knxTunnel .emi1 []) ∧
  decodeTableWord 8 0b0011 = some .rxAbort ∧
  decodeTableWord 8 0b1111 = some (.cap 0) ∧
  decodeTableWord 1 0b1 = some .reset ∧
  decodeTableWord 64 0x0008010701031234 = some (.hdr ⟨0x00, 0x08, 263, 0x01, 0x03, 0x1234⟩) ∧
  decode (.report 1 ([0x00, 0x08, 0x00, 0x0B, 0x01, 0x03, 0x00, 0x00] ++ List.replicate 52 0x11 ++
    List.replicate 4 0x22)) =
    .ok (.rptFirst ⟨0x00, 0x08, 11, 0x01, 0x03, 0⟩ (List.replicate 52 0x11) (List.replicate 4 0x22)) ∧
  decode (.report 2 (List.replicate 61 0x11 ++ List.replicate 3 0x22)) =
    .ok (.rptCont 2 (List.replicate 61 0x11) (List.replicate 3 0x22))

/-- R82: a request with `op` = 0 is refused, whatever is on the bus and whatever the state; it gets no step. -/
def Obligations.ReservedSelectIsRefused : Prop :=
  ∀ (s : State) (bus : OperandBus) (rest : List Request),
    exec .reserved0 s = .refused .reservedSelect ∧
    (s.requests = .op 0x0 bus :: rest → step s = .refused .reservedSelect)

/-- One step performs the oldest request of the caller's stream, as decoded (R3, R55, R59 (a)); with no request the
engine is idle and keeps all its state (R226, R236). That the stream and the response are fields of `State` is the
model's choice (log 1, log 2); the last clause, that the engine stays idle at an input which requests nothing, the reset
input at 0, is the model's inference from R85, R226 and R236 (log 15). -/
def Obligations.StepPerformsTheDecodedRequest : Prop :=
  ∀ s : State,
    (s.requests = [] → step s = .next { s with response := none }) ∧
    (∀ r rest, s.requests = r :: rest →
      (∀ i, decode r = .ok i → step s = exec i { s with requests := rest }) ∧
      (∀ e, decode r = .error e → step s = .next { s with requests := rest, response := none }))

/-- A table word placed as the next request is the one the next step runs (log 4: the model's numbering). -/
def Obligations.PlacedTableWordRunsNext : Prop :=
  ∀ (s : State) (nbits w : Nat) (i : Instr), decodeTableWord nbits w = some i →
    step (s.withFetchWord nbits w) = exec i s

/-- Decoding an encoded instruction gives it back, with every operand at every value, for every instruction whose wire
parts have the sizes of R72 and R73 (every other instruction without a condition). The layout of the operand bus is
the model's choice (log 3); the octets of the wire formats are R71 to R73's. -/
def Obligations.DecodeEncodeGivesTheInstructionBack : Prop :=
  ∀ i : Instr, i.sized = true → decode (encode i) = .ok i

/-- Every 64-octet report with any side-band, and every 8-octet header image, is the encoding of exactly the
instruction it decodes to: no octet of a wire format is dropped (R71 to R74). -/
def Obligations.WireOctetsSurviveDecoding : Prop :=
  (∀ (seq : Nat) (b : List Octet), b.length = 64 →
    ∃ i, decode (.report seq b) = .ok i ∧ i.sized = true ∧ encode i = .report seq b ∧
      (seq = 1 ↔ ∃ h body pad, i = .rptFirst h body pad)) ∧
  (∀ b : List Octet, b.length = 8 → ∃ h, decode (.headerImage b) = .ok (.hdr h) ∧ encode (.hdr h) = .headerImage b)

/-- R276: "every operation terminates"; every accepted request gets a response in every state. Each instruction whose
operands are of its types answers a next state, with a response unless it is `RESET`. That `TX.FRAG` answers also where
R262 (c) does not hold is the model's choice (log 18). -/
def Obligations.EveryWellFormedOperationAnswers : Prop :=
  ∀ (i : Instr) (s : State), s.cfg.Ok → i.wf s.cfg = true →
    ∃ t, exec i s = .next t ∧ (i ≠ .reset → t.response.isSome = true)

/-- The parameters are never written (R35, R62). That a step takes one request, the oldest, off a stream held in `State`
is the model's choice (log 1); the order is R59 (a)'s. -/
def Obligations.StepKeepsTheParameters : Prop :=
  ∀ s t : State, step s = .next t → t.cfg = s.cfg ∧ t.requests = s.requests.tail

/-! ## Catalogs -/

/-- R101, R102, R103: selects 0xC, 0xD, 0xE; a code of the table answers its member, any other answers
`UnknownEnumValue` with the raw code; no state is written. -/
def Obligations.CatalogOperationsLookUpTheirTables : Prop :=
  selects 0xC "PID.DEC" ∧ selects 0xD "EMI.DEC" ∧ selects 0xE "MC.DEC" ∧ ∀ (s : State) (code : Octet), s.cfg.Ok →
    (∀ m, (code, m) ∈ s.cfg.pidTable → exec (.pidDec code) s = .next (answered s (.protocolId (.ok m)))) ∧
    ((∀ m, (code, m) ∉ s.cfg.pidTable) →
      exec (.pidDec code) s = .next (answered s (.protocolId (.unknownEnumValue code.toNat)))) ∧
    (∀ m, (code, m) ∈ s.cfg.emiTable → exec (.emiDec code) s = .next (answered s (.emiId (.ok m)))) ∧
    ((∀ m, (code, m) ∉ s.cfg.emiTable) →
      exec (.emiDec code) s = .next (answered s (.emiId (.unknownEnumValue code.toNat)))) ∧
    (∀ m, (code, m) ∈ s.cfg.mcTable → exec (.mcDec code) s = .next (answered s (.messageCode (.ok m)))) ∧
    ((∀ m, (code, m) ∉ s.cfg.mcTable) →
      exec (.mcDec code) s = .next (answered s (.messageCode (.unknownEnumValue code.toNat))))

/-- `code(decode(raw))` = `raw` whenever `decode(raw)` is `Ok`, and `decode(code(m))` = `Ok(m)` for every member: R105,
which the spec itself derives from R100. -/
def Obligations.CatalogCodeAndDecodeAreInverse : Prop :=
  ∀ (α : Type) [DecidableEq α] (t : List (Octet × α)), Config.isCatalog t →
    (∀ raw m, catalogDecode t raw = .ok m → catalogCode t m = some raw) ∧
    (∀ m, Config.isMember t m → ∃ code, catalogCode t m = some code ∧ catalogDecode t code = .ok m)

/-- Select 0xF; 52 for `seq` = 1, of kind first, 61 for 2 to `SEQ_MAX`, of kind continuation, `UnknownEnumValue(seq)`
otherwise; the same two capacities by `is_partial`; no state is written. R104 and R106 say so of every `seq` that the
side-band carries; that `CAP` answers `UnknownEnumValue` also for a `seq` of 2^`SEQ_W` or more is the model's inference
from R106 (log 13). -/
def Obligations.CapAnswersTheCapacityOfItsKind : Prop :=
  selects 0xF "CAP" ∧ capacity false = 52 ∧ capacity true = 61 ∧ ∀ (s : State) (seq : Nat), s.cfg.Ok →
    (seq = 1 → kind s.cfg seq = .ok .first ∧ exec (.cap seq) s = .next (answered s (.capacity (.ok 52)))) ∧
    (2 ≤ seq → seq ≤ s.cfg.seqMax → kind s.cfg seq = .ok .continuation ∧
      exec (.cap seq) s = .next (answered s (.capacity (.ok 61)))) ∧
    (seq = 0 ∨ s.cfg.seqMax < seq → kind s.cfg seq = .unknownEnumValue seq ∧
      exec (.cap seq) s = .next (answered s (.capacity (.unknownEnumValue seq))))

/-! ## Header codec -/

/-- R121: select 0x4; `HDR.ENC` on members of the tables answers a valid header with version 0, length 8, manufacturer
code 0 and its operands, and writes no state; on any other name the request is refused. -/
def Obligations.HdrEncBuildsAValidHeader : Prop :=
  selects 0x4 "HDR.ENC" ∧ ∀ (s : State) (bodyLength : U16) (pid : ProtocolId) (emi : EmiId),
    (Config.isMember s.cfg.pidTable pid → Config.isMember s.cfg.emiTable emi →
      exec (.hdrEnc bodyLength pid emi) s = .next (answered s (.header (.valid
        { protocolVersion := 0, headerLength := 8, bodyLength := bodyLength, protocolId := pid, emiId := emi,
          manufacturerCode := 0 }) none))) ∧
    (¬(Config.isMember s.cfg.pidTable pid ∧ Config.isMember s.cfg.emiTable emi) →
      exec (.hdrEnc bodyLength pid emi) s = .refused .notAMember)

/-- R122: select 0x5; `HDR.DEC` makes its five tests in the order length, `protocol_id`, `emi_id`, version, header
length; the first that fails is the diagnostic; 8 octets that pass all give the header of their big-endian fields. No
state is written. -/
def Obligations.HdrDecTestsInOrder : Prop :=
  selects 0x5 "HDR.DEC" ∧ ∀ s : State, s.cfg.Ok →
    (∀ bytes : List Octet, bytes.length ≠ 8 → exec (.hdrDec bytes) s =
      .next (answered s (.header .invalid (some ⟨.malformedLength, 0, .seq, 8, bytes.length⟩)))) ∧
    (∀ b0 b1 b2 b3 b4 b5 b6 b7 : Octet,
      ((∀ m, (b4, m) ∉ s.cfg.pidTable) → exec (.hdrDec [b0, b1, b2, b3, b4, b5, b6, b7]) s =
        .next (answered s (.header .invalid (some ⟨.unknownEnumValue, 0, .protocolId, 0, b4.toNat⟩)))) ∧
      (∀ pid, (b4, pid) ∈ s.cfg.pidTable →
        ((∀ m, (b5, m) ∉ s.cfg.emiTable) → exec (.hdrDec [b0, b1, b2, b3, b4, b5, b6, b7]) s =
          .next (answered s (.header .invalid (some ⟨.unknownEnumValue, 0, .emiId, 0, b5.toNat⟩)))) ∧
        (∀ emi, (b5, emi) ∈ s.cfg.emiTable →
          (b0 ≠ 0 → exec (.hdrDec [b0, b1, b2, b3, b4, b5, b6, b7]) s =
            .next (answered s (.header .invalid (some ⟨.protocolVersionMismatch, 0, .seq, 0, b0.toNat⟩)))) ∧
          (b0 = 0 → b1 ≠ 8 → exec (.hdrDec [b0, b1, b2, b3, b4, b5, b6, b7]) s =
            .next (answered s (.header .invalid (some ⟨.headerLengthMismatch, 0, .seq, 8, b1.toNat⟩)))) ∧
          (b0 = 0 → b1 = 8 → ∃ bl mfr : U16,
            bl.toNat = b2.toNat * 256 + b3.toNat ∧ mfr.toNat = b6.toNat * 256 + b7.toNat ∧
            exec (.hdrDec [b0, b1, b2, b3, b4, b5, b6, b7]) s =
              .next (answered s (.header (.valid
                { protocolVersion := 0, headerLength := 8, bodyLength := bl, protocolId := pid, emiId := emi,
                  manufacturerCode := mfr }) none))))))

/-- Select 0x6; `HDR.TOB` answers no octets for an invalid header and, for a valid one whose identifiers have the codes
`p` and `e`, the 8 octets of its fields, the 16-bit ones big-endian; no state is written. R123 gives this for the headers
a codec makes; that it holds also for a valid header of another version or length is the model's choice (log 17). -/
def Obligations.HdrTobSerializes : Prop :=
  selects 0x6 "HDR.TOB" ∧ ∀ s : State, s.cfg.Ok →
    exec (.hdrTob .invalid) s = .next (answered s (.octets [])) ∧
    (∀ (f : HeaderFields) (p e : Octet), (p, f.protocolId) ∈ s.cfg.pidTable → (e, f.emiId) ∈ s.cfg.emiTable →
      exec (.hdrTob (.valid f)) s = .next (answered s (.octets
        [f.protocolVersion, f.headerLength,
          BitVec.ofNat 8 (f.bodyLength.toNat / 256), BitVec.ofNat 8 (f.bodyLength.toNat % 256), p, e,
          BitVec.ofNat 8 (f.manufacturerCode.toNat / 256), BitVec.ofNat 8 (f.manufacturerCode.toNat % 256)])))

/-- R124: for every `HeaderData`, `HDR.DEC(HDR.TOB(HDR.ENC(d)))` is valid and has the same `body_length`, `protocol_id`
and `emi_id`, with manufacturer code 0. -/
def Obligations.HeaderRoundTrip : Prop :=
  ∀ (s : State) (bodyLength : U16) (pid : ProtocolId) (emi : EmiId), s.cfg.Ok →
    Config.isMember s.cfg.pidTable pid → Config.isMember s.cfg.emiTable emi →
    ∃ (h : Header) (b : List Octet),
      exec (.hdrEnc bodyLength pid emi) s = .next (answered s (.header h none)) ∧
      exec (.hdrTob h) s = .next (answered s (.octets b)) ∧
      exec (.hdrDec b) s = .next (answered s (.header (.valid
        { protocolVersion := 0, headerLength := 8, bodyLength := bodyLength, protocolId := pid, emiId := emi,
          manufacturerCode := 0 }) none))

/-- R123, corner case: `HDR.TOB(HDR.DEC(b))` = `b` for every `b` that decodes valid, a non-zero manufacturer code
included. -/
def Obligations.DecodedHeaderSerializesBack : Prop :=
  ∀ (s : State) (b : List Octet) (f : HeaderFields), s.cfg.Ok →
    exec (.hdrDec b) s = .next (answered s (.header (.valid f) none)) →
    exec (.hdrTob (.valid f)) s = .next (answered s (.octets b))

/-- R125: the four conditions are the whole test for a decoded header, and a header made by `HDR.ENC` meets those of
them that concern its fields. -/
def Obligations.DecodedHeaderValidIff : Prop :=
  ∀ (s : State) (b : List Octet), s.cfg.Ok →
    ((∃ f, exec (.hdrDec b) s = .next (answered s (.header (.valid f) none))) ↔
      b.length = 8 ∧ (∃ pid, (b.getD 4 0, pid) ∈ s.cfg.pidTable) ∧ (∃ emi, (b.getD 5 0, emi) ∈ s.cfg.emiTable) ∧
        b.getD 0 0 = 0 ∧ b.getD 1 0 = 8) ∧
    (∀ bodyLength pid emi, Config.isMember s.cfg.pidTable pid → Config.isMember s.cfg.emiTable emi →
      ∃ f, exec (.hdrEnc bodyLength pid emi) s = .next (answered s (.header (.valid f) none)) ∧
        f.protocolVersion = 0 ∧ f.headerLength = 8 ∧ Config.isMember s.cfg.pidTable f.protocolId ∧
        Config.isMember s.cfg.emiTable f.emiId)

/-- R121, R160 and U8: a name that is no member of its table is outside the domain of `HDR.ENC` and `TX.FRAG` and the
request is refused; for `HDR.TOB` the same is read from R100, where `code` is total on members only (log 8), of any
header with such a name, which no codec makes (log 17). -/
def Obligations.NamesOutsideTheTablesAreRefused : Prop :=
  ∀ (s : State) (pid : ProtocolId) (emi : EmiId),
    ¬(Config.isMember s.cfg.pidTable pid ∧ Config.isMember s.cfg.emiTable emi) →
    (∀ bodyLength, exec (.hdrEnc bodyLength pid emi) s = .refused .notAMember) ∧
    (∀ frame, exec (.txFrag pid emi frame) s = .refused .notAMember) ∧
    (∀ f : HeaderFields, f.protocolId = pid → f.emiId = emi → exec (.hdrTob (.valid f)) s = .refused .notAMember)

/-! ## Body codec -/

/-- R141: select 0x7; a payload within the capacity of its kind is a valid body as given; one over it gives an
invalid body and `CapacityExceeded`. No state is written. -/
def Obligations.BodyEncKeepsToCapacity : Prop :=
  selects 0x7 "BODY.ENC" ∧ ∀ (s : State) (payload : List Octet) (isPartial : Bool) (cap : Nat),
    cap = (if isPartial then 61 else 52) →
    (payload.length ≤ cap → exec (.bodyEnc payload isPartial) s =
      .next (answered s (.body (.valid ⟨payload, isPartial⟩) none))) ∧
    (cap < payload.length → exec (.bodyEnc payload isPartial) s =
      .next (answered s (.body .invalid (some ⟨.capacityExceeded, 0, .seq, cap, payload.length⟩))))

/-- R142: select 0x8; 52 octets are a first segment, 61 a continuation, any other length is malformed. No state is
written. -/
def Obligations.BodyDecTellsTheKindByLength : Prop :=
  selects 0x8 "BODY.DEC" ∧ ∀ (s : State) (bytes : List Octet),
    (bytes.length = 52 → exec (.bodyDec bytes) s = .next (answered s (.body (.valid ⟨bytes, false⟩) none))) ∧
    (bytes.length = 61 → exec (.bodyDec bytes) s = .next (answered s (.body (.valid ⟨bytes, true⟩) none))) ∧
    (bytes.length ≠ 52 → bytes.length ≠ 61 → exec (.bodyDec bytes) s =
      .next (answered s (.body .invalid (some ⟨.malformedLength, 0, .seq, 52, bytes.length⟩))))

/-- Select 0x9; the payload with zeros up to the width of the `is_partial` operand; nothing for an invalid body or a
payload over that width. No state is written. R143 gives this for the bodies a codec makes; that it holds also for a
valid body over the capacity of its own kind is the model's choice (log 17). -/
def Obligations.BodyTobPadsToWidth : Prop :=
  selects 0x9 "BODY.TOB" ∧ ∀ (s : State) (f : BodyFields) (isPartial : Bool) (cap : Nat),
    cap = (if isPartial then 61 else 52) →
    exec (.bodyTob .invalid isPartial) s = .next (answered s (.octets [])) ∧
    (cap < f.payload.length → exec (.bodyTob (.valid f) isPartial) s = .next (answered s (.octets []))) ∧
    (f.payload.length ≤ cap → exec (.bodyTob (.valid f) isPartial) s =
      .next (answered s (.octets (f.payload ++ List.replicate (cap - f.payload.length) 0))))

/-- Select 0xA; `Some` of the first payload octet of a valid, non-empty first segment; `None` otherwise. No state is
written. R144 gives this for the bodies a codec makes; that it holds also for a valid body over the capacity of its kind
is the model's choice (log 17). -/
def Obligations.BodyMcIsTheFirstOctet : Prop :=
  selects 0xA "BODY.MC" ∧ ∀ s : State,
    exec (.bodyMc .invalid) s = .next (answered s (.emiMessageCode none)) ∧
    (∀ payload, exec (.bodyMc (.valid ⟨payload, true⟩)) s = .next (answered s (.emiMessageCode none))) ∧
    exec (.bodyMc (.valid ⟨[], false⟩)) s = .next (answered s (.emiMessageCode none)) ∧
    (∀ o payload, exec (.bodyMc (.valid ⟨o :: payload, false⟩)) s = .next (answered s (.emiMessageCode (some o))))

/-- Select 0xB; the payload's length for a valid body, `None` for an invalid one. No state is written. R145 gives this
for the bodies a codec makes; that it holds also for a valid body over the capacity of its kind is the model's choice
(log 17). -/
def Obligations.BodyLenIsThePayloadLength : Prop :=
  selects 0xB "BODY.LEN" ∧ ∀ s : State,
    exec (.bodyLen .invalid) s = .next (answered s (.length none)) ∧
    (∀ f : BodyFields, exec (.bodyLen (.valid f)) s = .next (answered s (.length (some f.payload.length))))

/-- R146: for a payload within capacity, `BODY.DEC(BODY.TOB(BODY.ENC({p, k}), k))` is valid, of kind `k`, of full width,
starts with `p` and has only zeros from offset `len(p)` on. -/
def Obligations.BodyRoundTrip : Prop :=
  ∀ (s : State) (p : List Octet) (k : Bool) (cap : Nat), cap = (if k then 61 else 52) → p.length ≤ cap →
    ∃ (b : Body) (image payload : List Octet),
      exec (.bodyEnc p k) s = .next (answered s (.body b none)) ∧
      exec (.bodyTob b k) s = .next (answered s (.octets image)) ∧
      exec (.bodyDec image) s = .next (answered s (.body (.valid ⟨payload, k⟩) none)) ∧
      payload.length = cap ∧ payload.take p.length = p ∧ ∀ o ∈ payload.drop p.length, o = 0

/-! ## Fragmenter -/

/-- Select 0x1; the reports of an accepted frame, the empty one included, octet by octet: the first with the header of
R71 and the first 52 octets, then one for each 61 further octets, tagged 1, 2, 3, ...; all the rest zeros. A longer frame
gives `FrameTooLarge`. No state is written. R161, R164 and R167 give this; that it holds, with tags past `SEQ_MAX` and
past the side-band, also where R262 (c) does not hold is the model's choice (log 18). -/
def Obligations.TxFragYieldsTheReportsOfTheFrame : Prop :=
  selects 0x1 "TX.FRAG" ∧ ∀ (s : State) (pid : ProtocolId) (emi : EmiId) (frame : List Octet) (p e : Octet), s.cfg.Ok →
    (p, pid) ∈ s.cfg.pidTable → (e, emi) ∈ s.cfg.emiTable →
    (s.cfg.maxFrameLen < frame.length → exec (.txFrag pid emi frame) s =
      .next (answered s (.txFail ⟨.frameTooLarge, 0, .seq, s.cfg.maxFrameLen, frame.length⟩))) ∧
    (frame.length ≤ s.cfg.maxFrameLen → exec (.txFrag pid emi frame) s = .next (answered s (.reports (
      (1, [0, 8, BitVec.ofNat 8 (frame.length / 256), BitVec.ofNat 8 (frame.length % 256), p, e, 0, 0] ++
        frame.take 52 ++ List.replicate (56 - min frame.length 52) 0) ::
      (List.range ((frame.length - 52 + 60) / 61)).map fun k =>
        (k + 2, (frame.drop (52 + 61 * k)).take 61 ++
          List.replicate (64 - min (frame.length - (52 + 61 * k)) 61) 0)))))

/-- R162, R168: a frame longer than `MAX_FRAME_LEN` gives `FrameTooLarge` and no report; no state is written, the
status registers and the counter included (R229). -/
def Obligations.TxFragRejectsAnOversizedFrameWhole : Prop :=
  ∀ (s : State) (pid : ProtocolId) (emi : EmiId) (frame : List Octet),
    Config.isMember s.cfg.pidTable pid → Config.isMember s.cfg.emiTable emi →
    s.cfg.maxFrameLen < frame.length →
    exec (.txFrag pid emi frame) s =
      .next (answered s (.txFail ⟨.frameTooLarge, 0, .seq, s.cfg.maxFrameLen, frame.length⟩))

/-- `TX.FRAG` answers either a list of reports or `FrameTooLarge`; never `CapacityExceeded`, never another reason: R165,
which the spec itself derives from R161 and R141. -/
def Obligations.TxFragNeverReportsCapacityExceeded : Prop :=
  ∀ (s t : State) (pid : ProtocolId) (emi : EmiId) (frame : List Octet), exec (.txFrag pid emi frame) s = .next t →
    (∃ rs, rs ≠ [] ∧ t.response = some (.reports rs)) ∨
    (∃ r, t.response = some (.txFail r) ∧ r.reason = .frameTooLarge ∧ r.reason ≠ .capacityExceeded)

/-- R53, R76, R77: the payload parts of the reports, in order and cut at the frame's length, are the frame; every report
has 64 octets and report number i (from 1) is tagged i. Tags that the side-band cannot carry, where R262 (c) does not
hold, are the model's choice (log 18). -/
def Obligations.ReportsConcatenateToTheFrame : Prop :=
  ∀ (s t : State) (pid : ProtocolId) (emi : EmiId) (frame : List Octet) (rs : List (Nat × List Octet)),
    exec (.txFrag pid emi frame) s = .next t → t.response = some (.reports rs) →
    ((rs.map payloadPart).flatten).take frame.length = frame ∧
    (∀ p ∈ rs, p.2.length = 64) ∧ rs.map Prod.fst = (List.range rs.length).map (· + 1)

/-- R163, R262 (c): where the caller has set up `SEQ_MAX` ≥ `NREP(MAX_FRAME_LEN)`, every report of `TX.FRAG` carries a
tag of the domain 1 to `SEQ_MAX`, which fits the side-band (R74); the case of log 18 does not arise. -/
def Obligations.TagsStayOnTheSideBandWhenSetUp : Prop :=
  ∀ (s t : State) (pid : ProtocolId) (emi : EmiId) (frame : List Octet) (rs : List (Nat × List Octet)), s.cfg.Ok →
    configReady s.cfg = true → exec (.txFrag pid emi frame) s = .next t → t.response = some (.reports rs) →
    ∀ p ∈ rs, 1 ≤ p.1 ∧ p.1 ≤ s.cfg.seqMax ∧ p.1 < 2 ^ s.cfg.seqW

/-! ## Reassembler -/

/-- R184: a report whose length is not 64 fails with `MalformedLength(64, len)` in either state, before any other
test. -/
def Obligations.WrongReportLengthFails : Prop :=
  ∀ (s : State) (seq : Nat) (report : List Octet), seq < 2 ^ s.cfg.seqW → report.length ≠ 64 →
    exec (.rxReport seq report) s =
      .next (afterFailure s ⟨.malformedLength, seq, .seq, 64, report.length⟩)

/-- R185: a `seq` of 0 or above `SEQ_MAX` fails with `UnknownEnumValue(seq)` in either state. -/
def Obligations.SeqOutsideTheDomainFails : Prop :=
  ∀ (s : State) (seq : Nat) (report : List Octet), seq < 2 ^ s.cfg.seqW → report.length = 64 →
    seq = 0 ∨ s.cfg.seqMax < seq →
    exec (.rxReport seq report) s = .next (afterFailure s ⟨.unknownEnumValue, seq, .seq, 0, seq⟩)

/-- R74, R182: the side-band has `SEQ_W` bits, so a wider `seq` is no request and is refused (log 9). -/
def Obligations.SeqWiderThanTheSideBandIsRefused : Prop :=
  ∀ (s : State) (seq : Nat) (report : List Octet), 2 ^ s.cfg.seqW ≤ seq →
    exec (.rxReport seq report) s = .refused .seqNotOnSideBand

/-- R188: in `IDLE` a report with 2 ≤ `seq` ≤ `SEQ_MAX` fails with `UnexpectedContinuation(1, seq)`; its content is not
looked at. -/
def Obligations.ContinuationInIdleFails : Prop :=
  ∀ (s : State) (seq : Nat) (report : List Octet), s.cfg.Ok → s.rx = .idle → report.length = 64 → 2 ≤ seq →
    seq ≤ s.cfg.seqMax →
    exec (.rxReport seq report) s = .next (afterFailure s ⟨.unexpectedContinuation, seq, .seq, 1, seq⟩)

/-- R186, R228: in `IDLE` a first report whose header decodes invalid fails with the header's diagnostic, completed with
`seq` = 1. -/
def Obligations.InvalidHeaderFailsTheFirstReport : Prop :=
  ∀ (s : State) (report : List Octet) (d : FailRecord), s.cfg.Ok → s.rx = .idle → report.length = 64 →
    exec (.hdrDec (report.take 8)) s = .next (answered s (.header .invalid (some d))) →
    exec (.rxReport 1 report) s = .next (afterFailure s { d with seq := 1 })

/-- R187, R200: in `IDLE` a first report with a valid header completes at once when `body_length` ≤ 52 (0 included), and
otherwise opens a transfer with exactly the context R187 lists. Status registers and counter are unchanged. -/
def Obligations.FirstReportCompletesOrOpens : Prop :=
  ∀ (s : State) (report : List Octet) (h : HeaderFields), s.cfg.Ok → s.rx = .idle → report.length = 64 →
    exec (.hdrDec (report.take 8)) s = .next (answered s (.header (.valid h) none)) →
    (h.bodyLength.toNat ≤ 52 → exec (.rxReport 1 report) s = .next (received s .idle
      (.frame ((report.drop 8).take h.bodyLength.toNat) h.protocolId h.emiId h.manufacturerCode))) ∧
    (52 < h.bodyLength.toNat → exec (.rxReport 1 report) s = .next (received s
      (.collecting
        { bodyLength := h.bodyLength, count := 52, nextSeq := 2, buf := (report.drop 8).take 52,
          pid := h.protocolId, emi := h.emiId, mfr := h.manufacturerCode })
      .noFrame))

/-- R191, R192: in `COLLECTING` a `seq` of the domain that is not `rx_next_seq` (1 included) fails with
`SequenceGapOrDuplicate(rx_next_seq, seq)`; the report opens nothing. -/
def Obligations.SequenceGapOrDuplicateFails : Prop :=
  ∀ (s : State) (t : Transfer) (seq : Nat) (report : List Octet), s.cfg.Ok → s.rx = .collecting t →
    report.length = 64 → 1 ≤ seq → seq ≤ s.cfg.seqMax → seq ≠ t.nextSeq →
    exec (.rxReport seq report) s =
      .next (afterFailure s ⟨.sequenceGapOrDuplicate, seq, .seq, t.nextSeq, seq⟩)

/-- R189, R193: in `COLLECTING` the awaited report appends min(61, remaining) octets; the transfer completes with the
accumulated frame and the header's three fields when none remain, and goes on otherwise. Status registers and counter
are unchanged. `Transfer.Inv` (R30) rules out contexts no run reaches. -/
def Obligations.AwaitedReportCompletesOrGoesOn : Prop :=
  ∀ (s : State) (t : Transfer) (report : List Octet) (remaining : Nat), s.cfg.Ok → s.rx = .collecting t →
    t.Inv s.cfg → report.length = 64 → t.nextSeq ≤ s.cfg.seqMax → remaining = t.bodyLength.toNat - t.count →
    (remaining ≤ 61 → exec (.rxReport t.nextSeq report) s = .next (received s .idle
      (.frame (t.buf ++ report.take remaining) t.pid t.emi t.mfr))) ∧
    (61 < remaining → exec (.rxReport t.nextSeq report) s = .next (received s
      (.collecting { t with
        buf := t.buf ++ report.take 61, count := t.count + 61, nextSeq := t.nextSeq + 1 })
      .noFrame))

/-- R196: select 0x3; `RX.ABORT` in `COLLECTING` fails with `AbortedByCaller(rx_body_length, rx_count)` and `seq` 0;
in `IDLE` it does nothing and answers `NoFrame`. -/
def Obligations.AbortFailsOnlyATransfer : Prop :=
  selects 0x3 "RX.ABORT" ∧ ∀ s : State,
    (∀ t, s.rx = .collecting t → exec .rxAbort s =
      .next (afterFailure s ⟨.abortedByCaller, 0, .seq, t.bodyLength.toNat, t.count⟩)) ∧
    (s.rx = .idle → exec .rxAbort s = .next (answered s (.rx .noFrame)))

/-- R34, R260: the state after `RESET`, from any state and asked for by its own input: no transfer, zeros in the status
registers and the counter, nothing else changed. -/
def Obligations.ResetGivesTheResetState : Prop :=
  decode (.resetPin 1) = .ok .reset ∧ ∀ s : State, exec .reset s = .next { s with
    rx := .idle, status := ⟨.none, 0, .seq, 0, 0⟩, rxFailCount := 0, response := none }

/-! ## Wire formats as inputs -/

/-- R71: the header image whose fixed fields are 0 and 8 and whose codes stand in the tables gives the header of its
fields. That a bare image is answered as `HDR.DEC` answers is the model's choice (log 5). -/
def Obligations.HeaderImageGivesItsHeader : Prop :=
  ∀ (s : State) (image : HdrImage) (pid : ProtocolId) (emi : EmiId), s.cfg.Ok → image.protocolVersion = 0 →
    image.headerLength = 8 → (image.protocolId, pid) ∈ s.cfg.pidTable → (image.emiId, emi) ∈ s.cfg.emiTable →
    exec (.hdr image) s = .next (answered s (.header (.valid
      { protocolVersion := 0, headerLength := 8, bodyLength := image.bodyLength, protocolId := pid, emiId := emi,
        manufacturerCode := image.manufacturerCode }) none))

/-- R72, R187: a report of format `RPT.FIRST` in `IDLE`, given by its header fields, body image and pad: the pad is not
looked at, the body image is the payload. That a report input is run as `RX.REPORT` is the model's choice (log 5). -/
def Obligations.FirstReportFormatCompletesOrOpens : Prop :=
  ∀ (s : State) (header : HdrImage) (body pad : List Octet) (pid : ProtocolId) (emi : EmiId), s.cfg.Ok →
    s.rx = .idle → header.protocolVersion = 0 → header.headerLength = 8 →
    (header.protocolId, pid) ∈ s.cfg.pidTable → (header.emiId, emi) ∈ s.cfg.emiTable →
    body.length = 52 → pad.length = 4 →
    (header.bodyLength.toNat ≤ 52 → exec (.rptFirst header body pad) s = .next (received s .idle
      (.frame (body.take header.bodyLength.toNat) pid emi header.manufacturerCode))) ∧
    (52 < header.bodyLength.toNat → exec (.rptFirst header body pad) s = .next (received s
      (.collecting
        { bodyLength := header.bodyLength, count := 52, nextSeq := 2, buf := body, pid := pid, emi := emi,
          mfr := header.manufacturerCode })
      .noFrame))

/-- R73, R189: the awaited report of format `RPT.CONT`, given by its body image and pad: the pad is not looked at.
That a report input is run as `RX.REPORT` is the model's choice (log 5). -/
def Obligations.ContinuationFormatCompletesOrGoesOn : Prop :=
  ∀ (s : State) (t : Transfer) (body pad : List Octet) (remaining : Nat), s.cfg.Ok → s.rx = .collecting t →
    t.Inv s.cfg → body.length = 61 → pad.length = 3 → t.nextSeq ≤ s.cfg.seqMax →
    remaining = t.bodyLength.toNat - t.count →
    (remaining ≤ 61 → exec (.rptCont t.nextSeq body pad) s = .next (received s .idle
      (.frame (t.buf ++ body.take remaining) t.pid t.emi t.mfr))) ∧
    (61 < remaining → exec (.rptCont t.nextSeq body pad) s = .next (received s
      (.collecting { t with
        buf := t.buf ++ body, count := t.count + 61, nextSeq := t.nextSeq + 1 })
      .noFrame))

/-- R195: a report input of either format does what `RX.REPORT` does with its octets, in every state, failures and
refusals included (log 5). -/
def Obligations.ReportFormatsRunAsRxReport : Prop :=
  ∀ (s : State) (header : HdrImage) (seq : Nat) (body pad : List Octet),
    exec (.rptFirst header body pad) s = exec (.rxReport 1 (header.octets ++ body ++ pad)) s ∧
    exec (.rptCont seq body pad) s = exec (.rxReport seq (body ++ pad)) s

/-! ## Failures, status registers, frames -/

/-- R228, R194: an operation whose outcome is `Fail(r)` does exactly the failure entry, and its record carries the
report's `seq`, 0 for `RX.ABORT`. -/
def Obligations.FailureDoesExactlyTheEntry : Prop :=
  ∀ (i : Instr) (s t : State) (r : FailRecord), exec i s = .next t → t.response = some (.rx (.fail r)) →
    t = afterFailure s r ∧ ((i = .rxAbort ∧ r.seq = 0) ∨ ∃ report, reportIn i = some (r.seq, report))

/-- R222: which reasons an operation's failure record can have: 1 to 4 for a header to be decoded, 1 and 8 for the body
codec, 7 for `TX.FRAG`, 1 to 6 for a report, 9 for `RX.ABORT`; no other operation shows a record. The bare header image
and the report formats are inputs by the model's choice (log 5). -/
def Obligations.EachOperationFailsOnlyWithItsReasons : Prop :=
  ∀ (i : Instr) (s t : State) (a : Response) (r : FailRecord), exec i s = .next t → t.response = some a →
    failureOf a = some r →
    (((∃ b, i = .hdrDec b) ∨ (∃ h, i = .hdr h)) ∧ 1 ≤ (reasonCode r.reason).toNat ∧ (reasonCode r.reason).toNat ≤ 4) ∨
    ((∃ b, i = .bodyDec b) ∧ r.reason = .malformedLength) ∨
    ((∃ p k, i = .bodyEnc p k) ∧ r.reason = .capacityExceeded) ∨
    ((∃ pid emi f, i = .txFrag pid emi f) ∧ r.reason = .frameTooLarge) ∨
    ((∃ p, reportIn i = some p) ∧ 1 ≤ (reasonCode r.reason).toNat ∧ (reasonCode r.reason).toNat ≤ 6) ∨
    (i = .rxAbort ∧ r.reason = .abortedByCaller)

/-- R28, R29: the status registers are sticky and the counter counts nothing else: an operation other than `RESET` whose
outcome is no `Fail` leaves both unchanged. -/
def Obligations.OnlyFailuresAndResetWriteTheStatus : Prop :=
  ∀ (i : Instr) (s t : State), exec i s = .next t → i ≠ .reset → (∀ r, t.response ≠ some (.rx (.fail r))) →
    t.status = s.status ∧ t.rxFailCount = s.rxFailCount

/-- R182: only `RX.REPORT` moves `rx_state` from `IDLE` to `COLLECTING`, and then with `seq` = 1 and a 64-octet report
whose header is valid. -/
def Obligations.OnlyAFirstReportOpensATransfer : Prop :=
  ∀ (i : Instr) (s t : State) (tr : Transfer), exec i s = .next t → s.rx = .idle → t.rx = .collecting tr →
    ∃ report h, reportIn i = some (1, report) ∧ report.length = 64 ∧
      exec (.hdrDec (report.take 8)) s = .next (answered s (.header (.valid h) none)) ∧
      52 < h.bodyLength.toNat ∧ tr.bodyLength = h.bodyLength

/-- R56, R166, R229: the catalog and codec operations, `TX.FRAG` and a bare header image change nothing but the
response, failing or not. -/
def Obligations.PureOperationsLeaveTheEngineAlone : Prop :=
  ∀ (i : Instr) (s t : State), isPure i = true → exec i s = .next t →
    t = { s with response := t.response } ∧ t.response.isSome = true ∧ ∀ o, t.response ≠ some (.rx o)

/-- R232, R193: a delivered frame has exactly the `body_length` of its transfer's header and carries that header's three
fields; the engine is in `IDLE` after it. -/
def Obligations.DeliveredFrameHasItsHeadersLength : Prop :=
  ∀ (i : Instr) (s t : State) (f : List Octet) (pid : ProtocolId) (emi : EmiId) (mfr : U16), EngineInv s →
    exec i s = .next t → t.response = some (.rx (.frame f pid emi mfr)) →
    t.rx = .idle ∧
    ((∃ tr, s.rx = .collecting tr ∧ f.length = tr.bodyLength.toNat ∧ pid = tr.pid ∧ emi = tr.emi ∧ mfr = tr.mfr) ∨
      (s.rx = .idle ∧ ∃ report h, reportIn i = some (1, report) ∧
        exec (.hdrDec (report.take 8)) s = .next (answered s (.header (.valid h) none)) ∧
        f.length = h.bodyLength.toNat ∧ pid = h.protocolId ∧ emi = h.emiId ∧ mfr = h.manufacturerCode))

/-- R190: a transfer whose `body_length` is over `RX_BUF_LEN` never completes: every report either fails it or leaves it
open with the same `body_length`, and once `rx_next_seq` = `SEQ_MAX` + 1 every report fails. -/
def Obligations.OversizedTransferNeverCompletes : Prop :=
  ∀ (s u : State) (tr : Transfer) (seq : Nat) (report : List Octet), EngineInv s → s.rx = .collecting tr →
    s.cfg.rxBufLen < tr.bodyLength.toNat → exec (.rxReport seq report) s = .next u →
    ((∃ r, u.response = some (.rx (.fail r)) ∧ u.rx = .idle) ∨
      (u.response = some (.rx .noFrame) ∧ tr.nextSeq ≠ s.cfg.seqMax + 1 ∧
        ∃ tr', u.rx = .collecting tr' ∧ tr'.bodyLength = tr.bodyLength))

/-- R191, R56: a report that was taken and left the transfer open fails it when it is fed again. -/
def Obligations.RepeatedReportFailsTheTransfer : Prop :=
  ∀ (s t : State) (tr : Transfer) (seq : Nat) (report : List Octet),
    exec (.rxReport seq report) s = .next t → t.rx = .collecting tr →
    exec (.rxReport seq report) t =
      .next (afterFailure t ⟨.sequenceGapOrDuplicate, seq, .seq, seq + 1, seq⟩)

/-- R79: the engine never looks at the pad octets, nor at octets of a body image beyond `body_length`. Two 64-octet
reports that agree on what is looked at have the same effect. -/
def Obligations.PadOctetsAreIgnored : Prop :=
  ∀ (s : State) (seq : Nat) (a b : List Octet), EngineInv s → a.length = 64 → b.length = 64 →
    (seq = 1 → a.take 60 = b.take 60 → exec (.rxReport seq a) s = exec (.rxReport seq b) s) ∧
    (seq ≠ 1 → a.take 61 = b.take 61 → exec (.rxReport seq a) s = exec (.rxReport seq b) s) ∧
    (∀ h, s.rx = .idle → seq = 1 →
      exec (.hdrDec (a.take 8)) s = .next (answered s (.header (.valid h) none)) → h.bodyLength.toNat ≤ 52 →
      a.take (8 + h.bodyLength.toNat) = b.take (8 + h.bodyLength.toNat) →
      exec (.rxReport seq a) s = exec (.rxReport seq b) s) ∧
    (∀ tr, s.rx = .collecting tr → seq = tr.nextSeq →
      a.take (tr.bodyLength.toNat - tr.count) = b.take (tr.bodyLength.toNat - tr.count) →
      exec (.rxReport seq a) s = exec (.rxReport seq b) s)

/-- A `TX.FRAG` and an `RX.REPORT` issued in either order have the same responses and leave the same engine: R63, which
the spec itself derives from R20 and R32. -/
def Obligations.TransmitAndReceiveHalvesAreIndependent : Prop :=
  ∀ (s s1 u1 : State) (pid : ProtocolId) (emi : EmiId) (frame : List Octet) (seq : Nat) (report : List Octet),
    exec (.txFrag pid emi frame) s = .next s1 → exec (.rxReport seq report) s = .next u1 →
    ∃ s2 u2, exec (.rxReport seq report) s1 = .next s2 ∧ exec (.txFrag pid emi frame) u1 = .next u2 ∧
      s2.response = u1.response ∧ u2.response = s1.response ∧ SameEngine s2 u2

/-- R28, R33, R231: the status registers, the counter and earlier responses influence no later operation: what an
operation answers and where it leaves the receive half depend on the parameters and the receive context alone. -/
def Obligations.StatusInfluencesNoOperation : Prop :=
  ∀ (i : Instr) (s t s' : State), s.cfg = t.cfg → s.rx = t.rx → exec i s = .next s' →
    ∃ t', exec i t = .next t' ∧ t'.response = s'.response ∧ t'.rx = s'.rx

/-- R61, R235: steps of two different engines commute. -/
def Obligations.StepsOfDifferentEnginesCommute : Prop :=
  ∀ (j k : Nat) (engines ej ek : List State), j ≠ k → stepAt j engines = .next ej → stepAt k engines = .next ek →
    ∃ both, stepAt k ej = .next both ∧ stepAt j ek = .next both

/-- R221, R224: the codes of the ten reasons and the four fields, no two alike. -/
def Obligations.ReasonAndFieldCodes : Prop :=
  [Reason.none, .malformedLength, .unknownEnumValue, .protocolVersionMismatch, .headerLengthMismatch,
      .unexpectedContinuation, .sequenceGapOrDuplicate, .frameTooLarge, .capacityExceeded, .abortedByCaller].map
    (fun r => (reasonCode r).toNat) = List.range 10 ∧
  [EnumField.seq, .protocolId, .emiId, .messageCode].map (fun f => (fieldCode f).toNat) = List.range 4 ∧
  (∀ r r', reasonCode r = reasonCode r' → r = r') ∧ (∀ f f', fieldCode f = fieldCode f' → f = f')

/-! ## Headlines -/

/-- A fresh engine meets the invariant, whatever its parameters, and so does the reset state (R34, R30). -/
def Obligations.FreshEngineMeetsTheInvariant : Prop :=
  (∀ c : Config, EngineInv (State.fresh c)) ∧ EngineInv State.reset

/-- R30 (with R21 to R29): every step from every state that meets the invariant gives a state that meets it. -/
def Obligations.EveryStepKeepsTheInvariant : Prop :=
  ∀ s t : State, EngineInv s → step s = .next t → EngineInv t

/-- R169, from every state in `IDLE` and not from reset alone: `LOOPBACK` of any frame the engine accepts and can hold,
the empty one included: every outcome but the last is `NoFrame`, the last is the frame itself with its `pid`, `emi` and
manufacturer code 0, and the engine ends as it began, its counter and status registers untouched. That there are
`NREP(L)` reports is R163, which the spec itself derives from R161. -/
def Obligations.LoopbackDeliversTheFrame : Prop :=
  ∀ (s : State) (pid : ProtocolId) (emi : EmiId) (frame : List Octet), s.cfg.Ok → s.rx = .idle →
    Config.isMember s.cfg.pidTable pid → Config.isMember s.cfg.emiTable emi →
    frame.length ≤ s.cfg.maxFrameLen → frame.length ≤ s.cfg.rxBufLen →
    ∃ rs, rs.length = nrep frame.length ∧
      exec (.txFrag pid emi frame) s = .next (answered s (.reports rs)) ∧
      loopback pid emi frame s = .next
        (.reports rs :: (List.replicate (rs.length - 1) (.rx .noFrame) ++ [.rx (.frame frame pid emi 0)]),
          { s with response := some (.rx (.frame frame pid emi 0)) })
end

