-- ==== Sys2Proof/Laws/State.lean ====
section
/-! SUPPORT. What each field of `State` is after each shared update, and after each field update by name. -/

namespace Sys2Proof.Machine

open Sys2Proof

section Respond
variable (r : Response) (s : State)
@[simp] theorem respond_cfg : (respond r s).cfg = s.cfg := rfl
@[simp] theorem respond_rx : (respond r s).rx = s.rx := rfl
@[simp] theorem respond_status : (respond r s).status = s.status := rfl
@[simp] theorem respond_rxFailCount : (respond r s).rxFailCount = s.rxFailCount := rfl
@[simp] theorem respond_requests : (respond r s).requests = s.requests := rfl
@[simp] theorem respond_response : (respond r s).response = some r := rfl
end Respond

section RxReturn
variable (x : RxContext) (o : RxOutcome) (s : State)
@[simp] theorem rxReturn_cfg : (rxReturn x o s).cfg = s.cfg := rfl
@[simp] theorem rxReturn_rx : (rxReturn x o s).rx = x := rfl
@[simp] theorem rxReturn_status : (rxReturn x o s).status = s.status := rfl
@[simp] theorem rxReturn_rxFailCount : (rxReturn x o s).rxFailCount = s.rxFailCount := rfl
@[simp] theorem rxReturn_requests : (rxReturn x o s).requests = s.requests := rfl
@[simp] theorem rxReturn_response : (rxReturn x o s).response = some (.rx o) := rfl
end RxReturn

section FailEntry
variable (r : FailRecord) (s : State)
@[simp] theorem failEntry_cfg : (failEntry r s).cfg = s.cfg := rfl
@[simp] theorem failEntry_rx : (failEntry r s).rx = .idle := rfl
@[simp] theorem failEntry_status : (failEntry r s).status = r := rfl
@[simp] theorem failEntry_rxFailCount : (failEntry r s).rxFailCount = satInc s.cfg.cntW s.rxFailCount := rfl
@[simp] theorem failEntry_requests : (failEntry r s).requests = s.requests := rfl
@[simp] theorem failEntry_response : (failEntry r s).response = some (.rx (.fail r)) := rfl
end FailEntry

section Fresh
variable (c : Config)
@[simp] theorem fresh_cfg : (State.fresh c).cfg = c := rfl
@[simp] theorem fresh_rx : (State.fresh c).rx = .idle := rfl
@[simp] theorem fresh_status : (State.fresh c).status = FailRecord.none := rfl
@[simp] theorem fresh_rxFailCount : (State.fresh c).rxFailCount = 0 := rfl
@[simp] theorem fresh_requests : (State.fresh c).requests = [] := rfl
@[simp] theorem fresh_response : (State.fresh c).response = none := rfl
end Fresh

section OpenTransfer
variable (h : HeaderFields) (p : List Octet)
@[simp] theorem openTransfer_bodyLength : (openTransfer h p).bodyLength = h.bodyLength := rfl
@[simp] theorem openTransfer_count : (openTransfer h p).count = capFirst := rfl
@[simp] theorem openTransfer_nextSeq : (openTransfer h p).nextSeq = 2 := rfl
@[simp] theorem openTransfer_buf : (openTransfer h p).buf = p := by simp [openTransfer, memWrite]
@[simp] theorem openTransfer_pid : (openTransfer h p).pid = h.protocolId := rfl
@[simp] theorem openTransfer_emi : (openTransfer h p).emi = h.emiId := rfl
@[simp] theorem openTransfer_mfr : (openTransfer h p).mfr = h.manufacturerCode := rfl
end OpenTransfer

section StayIdle
variable (s : State)
@[simp] theorem stayIdle_cfg : (stayIdle s).cfg = s.cfg := rfl
@[simp] theorem stayIdle_rx : (stayIdle s).rx = s.rx := rfl
@[simp] theorem stayIdle_status : (stayIdle s).status = s.status := rfl
@[simp] theorem stayIdle_rxFailCount : (stayIdle s).rxFailCount = s.rxFailCount := rfl
@[simp] theorem stayIdle_requests : (stayIdle s).requests = s.requests := rfl
@[simp] theorem stayIdle_response : (stayIdle s).response = none := rfl
end StayIdle

section AppendSegment
variable (t : Transfer) (p : List Octet)
@[simp] theorem appendSegment_bodyLength : (appendSegment t p).bodyLength = t.bodyLength := rfl
@[simp] theorem appendSegment_count : (appendSegment t p).count = t.count + takeCount t := rfl
@[simp] theorem appendSegment_nextSeq : (appendSegment t p).nextSeq = t.nextSeq := rfl
@[simp] theorem appendSegment_pid : (appendSegment t p).pid = t.pid := rfl
@[simp] theorem appendSegment_emi : (appendSegment t p).emi = t.emi := rfl
@[simp] theorem appendSegment_mfr : (appendSegment t p).mfr = t.mfr := rfl
end AppendSegment

section Requests
variable (s : State) (rs : List Request)
@[simp] theorem withRequests_cfg : ({ s with requests := rs } : State).cfg = s.cfg := rfl
@[simp] theorem withRequests_rx : ({ s with requests := rs } : State).rx = s.rx := rfl
@[simp] theorem withRequests_status : ({ s with requests := rs } : State).status = s.status := rfl
@[simp] theorem withRequests_requests : ({ s with requests := rs } : State).requests = rs := rfl
@[simp] theorem withRequests_rxFailCount : ({ s with requests := rs } : State).rxFailCount = s.rxFailCount := rfl
end Requests

/-- The counter stays inside its width (R29). -/
theorem satInc_lt (w n : Nat) : satInc w n < 2 ^ w := by
  have : 0 < 2 ^ w := Nat.two_pow_pos w
  unfold satInc; split <;> omega

end Sys2Proof.Machine
end

