-- ==== Sys2Proof/Laws/Bytes.lean ====
section
/-! SUPPORT. Byte sequences, buffer access, and the assembly of 16-bit fields (spec/00_scope.md R10, R11, R75). -/

namespace Sys2Proof

/-- `slice` as what is left of `b[0:j]` after its first `i` octets. -/
theorem slice_eq (b : List Octet) (i j : Nat) : slice b i j = (b.take j).drop i := rfl

@[simp] theorem slice_zero (b : List Octet) (j : Nat) : slice b 0 j = b.take j := by simp [slice]

@[simp] theorem length_slice (b : List Octet) (i j : Nat) : (slice b i j).length = min j b.length - i := by
  simp [slice]

@[simp] theorem length_zeros (n : Nat) : (zeros n).length = n := by simp [zeros]

/-- A slice of `n` octets from `i` is the first `n` of those from `i` on. -/
theorem slice_add (b : List Octet) (i n : Nat) : slice b i (i + n) = (b.drop i).take n := by
  simp [slice, List.drop_take]

/-- Cutting a sequence in two at `i` and putting it together again. -/
theorem take_append_slice (b : List Octet) (i j : Nat) (h : i ≤ j) : b.take i ++ slice b i j = b.take j := by
  have hj : j = i + (j - i) := by omega
  rw [hj, slice_add, ← List.take_add]

/-- `hi` and `lo` split a field into the two octets that `be16` assembles (R75). -/
theorem be16_hi_lo (v : U16) : BitVec.ofNat 16 ((hi v).toNat * 256 + (lo v).toNat) = v := by
  apply BitVec.eq_of_toNat_eq
  have := v.isLt
  simp only [hi, lo, BitVec.toNat_ofNat]
  omega

theorem hi_assembled (a b : Octet) : hi (BitVec.ofNat 16 (a.toNat * 256 + b.toNat)) = a := by
  apply BitVec.eq_of_toNat_eq
  have := a.isLt
  have := b.isLt
  simp only [hi, BitVec.toNat_ofNat]
  omega

theorem lo_assembled (a b : Octet) : lo (BitVec.ofNat 16 (a.toNat * 256 + b.toNat)) = b := by
  apply BitVec.eq_of_toNat_eq
  have := a.isLt
  have := b.isLt
  simp only [lo, BitVec.toNat_ofNat]
  omega

/-- A list of 8 octets is its 8 octets. -/
theorem eight_octets {b : List Octet} (h : b.length = 8) :
    ∃ b0 b1 b2 b3 b4 b5 b6 b7, b = [b0, b1, b2, b3, b4, b5, b6, b7] := by
  match b, h with
  | [b0, b1, b2, b3, b4, b5, b6, b7], _ => exact ⟨b0, b1, b2, b3, b4, b5, b6, b7, rfl⟩

@[simp] theorem HdrImage.length_octets (h : HdrImage) : h.octets.length = 8 := rfl

/-- No bit of a header image is lost or moved by writing it out and reading it back (R71). -/
@[simp] theorem HdrImage.ofOctets_octets (h : HdrImage) : HdrImage.ofOctets h.octets = h := by
  cases h
  simp [HdrImage.ofOctets, HdrImage.octets, octetAt, be16, be16_hi_lo]

/-- Any 8 octets are the octets of the image read from them (R71). -/
theorem HdrImage.octets_ofOctets {b : List Octet} (h : b.length = 8) : (HdrImage.ofOctets b).octets = b := by
  obtain ⟨b0, b1, b2, b3, b4, b5, b6, b7, rfl⟩ := eight_octets h
  simp [HdrImage.ofOctets, HdrImage.octets, octetAt, be16, hi_assembled, lo_assembled]

namespace Machine

@[simp] theorem length_memRead (b : List Octet) (off n : Nat) :
    (memRead b off n).length = min (off + n) b.length - off := by simp [memRead]

/-- Reading back what was just written (R11). -/
theorem memRead_memWrite {b : List Octet} {off : Nat} (v : List Octet) (h : off ≤ b.length) :
    memRead (memWrite b off v) off v.length = v := by
  have hl : (b.take off).length = off := by simp [h]
  simp [memRead, memWrite, slice_add, List.append_assoc, hl]

/-- A write leaves the octets before it alone. -/
theorem take_memWrite {b : List Octet} {off : Nat} (v : List Octet) (h : off ≤ b.length) :
    (memWrite b off v).take off = b.take off := by
  have hl : (b.take off).length = off := by simp [h]
  simp [memWrite, List.append_assoc, hl]

/-- A write leaves the octets after it alone. -/
theorem drop_memWrite {b : List Octet} {off : Nat} (v : List Octet) (h : off ≤ b.length) :
    (memWrite b off v).drop (off + v.length) = b.drop (off + v.length) := by
  have hl : (b.take off).length = off := by simp [h]
  simp [memWrite, List.append_assoc, List.drop_append, hl]

/-- A write at the end of a list extends it: how `rx_buf` grows (R25, R189). -/
@[simp] theorem memWrite_end (b v : List Octet) : memWrite b b.length v = b ++ v := by
  simp [memWrite]

theorem buf_appendSegment {t : Transfer} (h : t.buf.length = t.count) (p : List Octet) :
    (appendSegment t p).buf = t.buf ++ p.take (takeCount t) := by
  simp [appendSegment, ← h]

end Machine

end Sys2Proof
end

