-- ==== Sys2Proof/Laws/Catalogs.lean ====
section
/-! SUPPORT. The two functions of a catalog (spec/40_catalogs.md R100), the capacity (R104) and NREP (R9). -/

namespace Sys2Proof.Machine

open Sys2Proof

variable {α : Type}

/-- What `decode` finds stands in the table. -/
theorem mem_of_catalogDecode {t : List (Octet × α)} {raw : Octet} {m : α} (h : catalogDecode t raw = .ok m) :
    (raw, m) ∈ t := by
  induction t with
  | nil => simp [catalogDecode] at h
  | cons e t ih =>
    obtain ⟨code, m'⟩ := e
    simp only [catalogDecode] at h
    split at h
    · simp_all
    · exact List.mem_cons_of_mem _ (ih h)

/-- What `decode` finds is a member of the table. -/
theorem isMember_of_catalogDecode {t : List (Octet × α)} {raw : Octet} {m : α} (h : catalogDecode t raw = .ok m) :
    Config.isMember t m :=
  List.mem_map_of_mem (f := Prod.snd) (mem_of_catalogDecode h)

/-- A code of the table decodes to its member, no code standing there twice. -/
theorem catalogDecode_of_mem {t : List (Octet × α)} (hn : (t.map Prod.fst).Nodup) {code : Octet} {m : α}
    (h : (code, m) ∈ t) : catalogDecode t code = .ok m := by
  induction t with
  | nil => cases h
  | cons e t ih =>
    obtain ⟨code', m'⟩ := e
    simp only [List.map_cons, List.nodup_cons] at hn
    rcases List.mem_cons.1 h with h | h
    · cases h; simp [catalogDecode]
    · have : code' ≠ code := fun he => hn.1 (he ▸ List.mem_map_of_mem (f := Prod.fst) h)
      simp [catalogDecode, this, ih hn.2 h]

/-- A code outside the table is reported with its raw value. -/
theorem catalogDecode_of_not_mem {t : List (Octet × α)} {raw : Octet} (h : raw ∉ t.map Prod.fst) :
    catalogDecode t raw = .unknownEnumValue raw.toNat := by
  induction t with
  | nil => rfl
  | cons e t ih =>
    obtain ⟨code, m⟩ := e
    simp only [List.map_cons, List.mem_cons, not_or] at h
    simp [catalogDecode, Ne.symm h.1, ih h.2]

/-- A lookup fails only outside the table, and names the raw value. -/
theorem catalogDecode_unknown {t : List (Octet × α)} {raw : Octet} {n : Nat}
    (h : catalogDecode t raw = .unknownEnumValue n) : n = raw.toNat ∧ raw ∉ t.map Prod.fst := by
  induction t with
  | nil => simp_all [catalogDecode]
  | cons e t ih =>
    obtain ⟨code, m⟩ := e
    simp only [catalogDecode] at h
    split at h
    · cases h
    · have := ih h
      refine ⟨this.1, ?_⟩
      simp only [List.map_cons, List.mem_cons, not_or]
      exact ⟨fun he => by simp_all, this.2⟩

section Code
variable [DecidableEq α]

/-- The code `code(m)` gives stands in the table beside `m`. -/
theorem mem_of_catalogCode {t : List (Octet × α)} {m : α} {code : Octet} (h : catalogCode t m = some code) :
    (code, m) ∈ t := by
  induction t with
  | nil => simp [catalogCode] at h
  | cons e t ih =>
    obtain ⟨code', m'⟩ := e
    simp only [catalogCode] at h
    split at h
    · simp_all
    · exact List.mem_cons_of_mem _ (ih h)

/-- A member's code is the one it stands beside, no member standing in the table twice. -/
theorem catalogCode_of_mem {t : List (Octet × α)} (hn : (t.map Prod.snd).Nodup) {code : Octet} {m : α}
    (h : (code, m) ∈ t) : catalogCode t m = some code := by
  induction t with
  | nil => cases h
  | cons e t ih =>
    obtain ⟨code', m'⟩ := e
    simp only [List.map_cons, List.nodup_cons] at hn
    rcases List.mem_cons.1 h with h | h
    · cases h; simp [catalogCode]
    · have : m' ≠ m := fun he => hn.1 (he ▸ List.mem_map_of_mem (f := Prod.snd) h)
      simp [catalogCode, this, ih hn.2 h]

/-- `code(m)` is total on members (R100). -/
theorem catalogCode_of_isMember {t : List (Octet × α)} {m : α} (h : Config.isMember t m) :
    ∃ code, catalogCode t m = some code := by
  induction t with
  | nil => cases h
  | cons e t ih =>
    obtain ⟨code, m'⟩ := e
    by_cases he : m' = m
    · exact ⟨code, by simp [catalogCode, he]⟩
    · have : Config.isMember t m := by
        simp only [Config.isMember, List.map_cons, List.mem_cons] at h
        exact h.resolve_left (Ne.symm he)
      obtain ⟨code', hc⟩ := ih this
      exact ⟨code', by simp [catalogCode, he, hc]⟩

/-- A name that is no member has no code. -/
theorem catalogCode_of_not_isMember {t : List (Octet × α)} {m : α} (h : ¬Config.isMember t m) :
    catalogCode t m = none := by
  induction t with
  | nil => rfl
  | cons e t ih =>
    obtain ⟨code, m'⟩ := e
    simp only [Config.isMember, List.map_cons, List.mem_cons, not_or] at h
    simp [catalogCode, Ne.symm h.1, ih h.2]

end Code

@[simp] theorem capacity_false : capacity false = 52 := rfl

@[simp] theorem capacity_true : capacity true = 61 := rfl

@[simp] theorem membersOk_iff (c : Config) (pid : ProtocolId) (emi : EmiId) :
    membersOk c pid emi = true ↔ Config.isMember c.pidTable pid ∧ Config.isMember c.emiTable emi := by
  simp [membersOk]

theorem nrep_of_le {n : Nat} (h : n ≤ 52) : nrep n = 1 := by simp [nrep, h]

theorem nrep_of_gt {n : Nat} (h : 52 < n) : nrep n = 1 + (n - 52 + 60) / 61 := by
  simp [nrep, Nat.not_le.2 h]

/-- A longer frame takes no fewer reports. -/
theorem nrep_mono {m n : Nat} (h : m ≤ n) : nrep m ≤ nrep n := by
  unfold nrep; simp only [capFirst, capCont]; split <;> split <;> omega

theorem nrep_pos (n : Nat) : 1 ≤ nrep n := by unfold nrep; split <;> simp

/-- Every accepted length fits the bound that the sequence numbers set (R9, R163, R190). -/
theorem nrep_le_seqMax {c : Config} {n : Nat} (hs : 1 ≤ c.seqMax) (h : n ≤ c.rxBufLen) : nrep n ≤ c.seqMax := by
  simp only [Config.rxBufLen, capFirst, capCont] at h
  simp only [nrep, capFirst, capCont]
  split <;> omega

end Sys2Proof.Machine
end

