-- ==== Sys2Proof/Laws/Codecs.lean ====
section
/-! SUPPORT. The header codec, the body codec and the fragmenter, one lemma per thing they can do. -/

namespace Sys2Proof.Machine

open Sys2Proof

/-! ## Header codec -/

/-- On the octets of a header image `HDR.DEC` makes exactly the tests of its fields. -/
@[simp] theorem hdrDec_octets (c : Config) (h : HdrImage) : hdrDec c h.octets = hdrCheck c h := by
  simp [hdrDec]

/-- All that a valid decode says (R122, R125). -/
theorem hdrCheck_ok {c : Config} {h : HdrImage} {f : HeaderFields} (hd : hdrCheck c h = .ok f) :
    f.protocolVersion = 0 ∧ f.headerLength = 8 ∧ h.protocolVersion = 0 ∧ h.headerLength = 8 ∧
      (h.protocolId, f.protocolId) ∈ c.pidTable ∧ (h.emiId, f.emiId) ∈ c.emiTable ∧
      f.bodyLength = h.bodyLength ∧ f.manufacturerCode = h.manufacturerCode := by
  simp only [hdrCheck, pidDec, emiDec] at hd
  split at hd
  · cases hd
  · cases hd
  · rename_i pid emi hp he
    split at hd
    · cases hd
    rename_i hv
    split at hd
    · cases hd
    rename_i hl
    have hv := not_not.1 hv
    have hl := not_not.1 hl
    cases hd
    exact ⟨hv, hl, hv, hl, mem_of_catalogDecode hp, mem_of_catalogDecode he, rfl, rfl⟩

/-- A valid decode is of 8 octets, whose fields passed the tests (R125). -/
theorem hdrDec_ok {c : Config} {b : List Octet} {f : HeaderFields} (hd : hdrDec c b = .ok f) :
    b.length = 8 ∧ hdrCheck c (.ofOctets b) = .ok f := by
  by_cases hl : b.length = headerLen
  · exact ⟨hl, by simpa [hdrDec, hl] using hd⟩
  · simp [hdrDec, hl] at hd

/-- The identifiers of a decoded header are members of their tables (R26). -/
theorem members_of_hdrDec {c : Config} {b : List Octet} {f : HeaderFields} (hd : hdrDec c b = .ok f) :
    Config.isMember c.pidTable f.protocolId ∧ Config.isMember c.emiTable f.emiId := by
  obtain ⟨-, -, -, -, hp, he, -⟩ := hdrCheck_ok (hdrDec_ok hd).2
  exact ⟨List.mem_map_of_mem (f := Prod.snd) hp, List.mem_map_of_mem (f := Prod.snd) he⟩

/-- The diagnostics of `HDR.DEC`: reasons 1 to 4 of R221, no `seq`, a field with an unknown code only (R222). -/
theorem hdrDec_error {c : Config} {b : List Octet} {r : FailRecord} (hd : hdrDec c b = .error r) :
    (r.reason = .malformedLength ∨ r.reason = .unknownEnumValue ∨ r.reason = .protocolVersionMismatch ∨
      r.reason = .headerLengthMismatch) ∧ r.seq = 0 ∧ (r.reason ≠ .unknownEnumValue → r.field = .seq) := by
  simp only [hdrDec, hdrCheck] at hd
  repeat' split at hd
  all_goals cases hd
  all_goals simp [malformedLength, unknownEnumValue, protocolVersionMismatch, headerLengthMismatch]

/-- The 8 octets of a valid header whose identifiers have the codes `p` and `e` (R123). -/
theorem hdrTob_valid {c : Config} {f : HeaderFields} {p e : Octet} (hp : catalogCode c.pidTable f.protocolId = some p)
    (he : catalogCode c.emiTable f.emiId = some e) :
    hdrTob c (.valid f) = some (HdrImage.octets
      { protocolVersion := f.protocolVersion, headerLength := f.headerLength, bodyLength := f.bodyLength,
        protocolId := p, emiId := e, manufacturerCode := f.manufacturerCode }) := by
  simp [hdrTob, hp, he, HdrImage.octets]

/-- A valid header with members in it always has its 8 octets. -/
theorem hdrTob_of_members {c : Config} {f : HeaderFields} (hp : Config.isMember c.pidTable f.protocolId)
    (he : Config.isMember c.emiTable f.emiId) : ∃ b, hdrTob c (.valid f) = some b ∧ b.length = 8 := by
  obtain ⟨p, hp⟩ := catalogCode_of_isMember hp
  obtain ⟨e, he⟩ := catalogCode_of_isMember he
  exact ⟨_, hdrTob_valid hp he, rfl⟩

/-- A header image with legal version and length and codes of the tables decodes to its fields (R122). -/
theorem hdrCheck_of_mem {c : Config} {h : HdrImage} {pid : ProtocolId} {emi : EmiId}
    (hpn : (c.pidTable.map Prod.fst).Nodup) (hen : (c.emiTable.map Prod.fst).Nodup)
    (hv : h.protocolVersion = 0) (hl : h.headerLength = 8) (hp : (h.protocolId, pid) ∈ c.pidTable)
    (he : (h.emiId, emi) ∈ c.emiTable) :
    hdrCheck c h = .ok
      { protocolVersion := 0, headerLength := 8, bodyLength := h.bodyLength, protocolId := pid, emiId := emi,
        manufacturerCode := h.manufacturerCode } := by
  simp [hdrCheck, pidDec, emiDec, catalogDecode_of_mem hpn hp, catalogDecode_of_mem hen he, hv, hl]

/-- The first test that fails is `protocol_id` (R122). -/
theorem hdrCheck_unknown_pid {c : Config} {h : HdrImage} (hp : h.protocolId ∉ c.pidTable.map Prod.fst) :
    hdrCheck c h = .error (unknownEnumValue 0 .protocolId h.protocolId.toNat) := by
  simp [hdrCheck, pidDec, catalogDecode_of_not_mem hp]

/-- The first test that fails is `emi_id` (R122). -/
theorem hdrCheck_unknown_emi {c : Config} {h : HdrImage} {pid : ProtocolId}
    (hpn : (c.pidTable.map Prod.fst).Nodup) (hp : (h.protocolId, pid) ∈ c.pidTable)
    (he : h.emiId ∉ c.emiTable.map Prod.fst) :
    hdrCheck c h = .error (unknownEnumValue 0 .emiId h.emiId.toNat) := by
  simp [hdrCheck, pidDec, emiDec, catalogDecode_of_mem hpn hp, catalogDecode_of_not_mem he]

/-- The first test that fails is the version (R122). -/
theorem hdrCheck_version {c : Config} {h : HdrImage} {pid : ProtocolId} {emi : EmiId}
    (hpn : (c.pidTable.map Prod.fst).Nodup) (hen : (c.emiTable.map Prod.fst).Nodup)
    (hp : (h.protocolId, pid) ∈ c.pidTable) (he : (h.emiId, emi) ∈ c.emiTable) (hv : h.protocolVersion ≠ 0) :
    hdrCheck c h = .error (protocolVersionMismatch 0 h.protocolVersion.toNat) := by
  simp only [hdrCheck, pidDec, emiDec, catalogDecode_of_mem hpn hp, catalogDecode_of_mem hen he]
  exact if_pos hv

/-- The first test that fails is the header length (R122). -/
theorem hdrCheck_length {c : Config} {h : HdrImage} {pid : ProtocolId} {emi : EmiId}
    (hpn : (c.pidTable.map Prod.fst).Nodup) (hen : (c.emiTable.map Prod.fst).Nodup)
    (hp : (h.protocolId, pid) ∈ c.pidTable) (he : (h.emiId, emi) ∈ c.emiTable) (hv : h.protocolVersion = 0)
    (hl : h.headerLength ≠ 8) : hdrCheck c h = .error (headerLengthMismatch 0 h.headerLength.toNat) := by
  simp only [hdrCheck, pidDec, emiDec, catalogDecode_of_mem hpn hp, catalogDecode_of_mem hen he]
  exact (if_neg (not_not.2 hv)).trans (if_pos hl)

/-- The octets of 8 as those of the image read from them, so that `hdrDec_octets` applies. -/
theorem hdrDec_eight {c : Config} {b : List Octet} (h : b.length = 8) :
    hdrDec c b = hdrCheck c (.ofOctets b) := by
  simp [hdrDec, h]

/-! ## Body codec -/

/-- A payload within capacity, encoded and serialized, is itself with zeros up to the width (R141, R143). -/
theorem bodyTob_bodyEnc {p : List Octet} {k : Bool} (h : p.length ≤ capacity k) :
    bodyTob (toBody (bodyEnc p k)) k = p ++ zeros (capacity k - p.length) := by
  simp [bodyEnc, h, toBody, bodyTob, Nat.not_lt.2 h]

theorem bodyDec_first {b : List Octet} (h : b.length = 52) : bodyDec b = .ok ⟨b, false⟩ := by
  simp [bodyDec, h]

theorem bodyDec_continuation {b : List Octet} (h : b.length = 61) : bodyDec b = .ok ⟨b, true⟩ := by
  simp [bodyDec, h]

/-! ## Fragmenter -/

/-- The continuation report that carries the frame's octets from `off` on: up to 61 of them, then zeros (R164). -/
theorem contReport_eq (frame : List Octet) (off : Nat) :
    bodyTob (toBody (bodyEnc (slice frame off (off + capCont)) true)) true ++ zeros 3 =
      slice frame off (off + 61) ++ zeros (64 - (slice frame off (off + 61)).length) := by
  have hl : (slice frame off (off + 61)).length ≤ 61 := by simp; omega
  rw [bodyTob_bodyEnc (by simpa using hl), List.append_assoc]
  simp only [zeros, List.replicate_append_replicate, capacity_true]
  congr 2
  have : 61 - (slice frame off (off + capCont)).length + 3 = 64 - (slice frame off (off + 61)).length := by
    simp only [capCont]; omega
  exact this

/-- What the loop of R161 yields: one report for each 61 octets left, tagged one after another (R163). Any bound on
its turns that is large enough gives the same. -/
theorem fragLoop_eq (frame : List Octet) (n off seq : Nat) (h : (frame.length - off + 60) / 61 ≤ n) :
    fragLoop n frame off seq = (List.range ((frame.length - off + 60) / 61)).map fun k =>
      (seq + k, slice frame (off + 61 * k) (off + 61 * k + 61) ++
        zeros (64 - (slice frame (off + 61 * k) (off + 61 * k + 61)).length)) := by
  induction n generalizing off seq with
  | zero =>
    have : (frame.length - off + 60) / 61 = 0 := by omega
    simp [fragLoop, this]
  | succ n ih =>
    by_cases hlt : off < frame.length
    · have hm : (frame.length - off + 60) / 61 = (frame.length - (off + capCont) + 60) / 61 + 1 := by
        simp only [capCont]; omega
      simp only [fragLoop, hlt, if_true, hm, List.range_succ_eq_map, List.map_cons, List.map_map]
      rw [ih (off + capCont) (seq + 1) (by omega), contReport_eq]
      congr 1
      apply List.map_congr_left
      intro k _
      have e1 : off + capCont + 61 * k = off + 61 * (k + 1) := by simp only [capCont]; omega
      have e2 : seq + 1 + k = seq + (k + 1) := by omega
      simp only [Function.comp, e1, e2]
    · have : (frame.length - off + 60) / 61 = 0 := by omega
      simp [fragLoop, hlt, this]

/-- The first report: header, the first 52 octets of the frame at most, then zeros (R164). -/
theorem firstReport_eq (header frame : List Octet) :
    header ++ bodyTob (toBody (bodyEnc (slice frame 0 capFirst) false)) false ++ zeros 4 =
      header ++ frame.take 52 ++ zeros (56 - (frame.take 52).length) := by
  have hl : (slice frame 0 capFirst).length ≤ capacity false := by simp
  have hl' : (frame.take 52).length ≤ 52 := by simp
  rw [bodyTob_bodyEnc hl]
  simp only [slice_zero, capFirst, capacity_false, List.append_assoc, zeros,
    List.replicate_append_replicate]
  congr 3
  omega

/-- How many reports `TX.FRAG` yields for a frame of any length (R163). -/
theorem length_fragReports (header frame : List Octet) :
    (fragReports header frame).length = nrep frame.length := by
  simp only [fragReports, List.length_cons]
  rw [fragLoop_eq _ _ _ _ (by simp only [capFirst]; omega)]
  simp only [List.length_map, List.length_range, nrep, capFirst, capCont]
  split <;> omega

end Sys2Proof.Machine
end

