-- ==== Sys2Proof/Laws/Reassembler.lean ====
section
/-! SUPPORT. Everything `RX.REPORT` and `RX.ABORT` can do, said once, and everything any operation can do. -/

namespace Sys2Proof.Machine

open Sys2Proof

/-- What the record of a failing `RX.REPORT` looks like (R194, R225): the report's `seq`, a reason of R222, and a field
with `UnknownEnumValue` only. -/
def RxFailure (seq : Nat) (r : FailRecord) : Prop :=
  r.seq = seq ∧ r.reason.receiveSide = true ∧ r.reason ≠ .none ∧ r.reason ≠ .abortedByCaller ∧
    (r.reason ≠ .unknownEnumValue → r.field = .seq)

/-- The report passed the first two tests of R183. -/
def Admitted (c : Config) (seq : Nat) (report : List Octet) : Prop :=
  report.length = 64 ∧ 1 ≤ seq ∧ seq ≤ c.seqMax

theorem rxReport_wrong_length {seq : Nat} {report : List Octet} {s : State} (h : report.length ≠ 64) :
    rxReport seq report s = failEntry (malformedLength seq 64 report.length) s := by
  simp [rxReport, h]

theorem rxReport_outside_domain {seq : Nat} {report : List Octet} {s : State} (h : report.length = 64)
    (hs : seq = 0 ∨ s.cfg.seqMax < seq) :
    rxReport seq report s = failEntry (unknownEnumValue seq .seq seq) s := by
  simp [rxReport, h, hs]

theorem rxReport_idle {seq : Nat} {report : List Octet} {s : State} (h : Admitted s.cfg seq report)
    (hx : s.rx = .idle) : rxReport seq report s = rxIdle seq report s := by
  obtain ⟨hl, h1, h2⟩ := h
  have : ¬(seq = 0 ∨ s.cfg.seqMax < seq) := by omega
  simp only [rxReport, hl, hx, ne_eq, not_true_eq_false, if_false, this]

theorem rxReport_collecting {seq : Nat} {report : List Octet} {s : State} {t : Transfer}
    (h : Admitted s.cfg seq report) (hx : s.rx = .collecting t) :
    rxReport seq report s = rxCollecting t seq report s := by
  obtain ⟨hl, h1, h2⟩ := h
  have : ¬(seq = 0 ∨ s.cfg.seqMax < seq) := by omega
  simp only [rxReport, hl, hx, ne_eq, not_true_eq_false, if_false, this]

/-- The slices `RX.REPORT` takes of a 64-octet report have the widths of the two body kinds (R186, R189). -/
theorem length_bodyImage_first {report : List Octet} (h : report.length = 64) : (memRead report 8 52).length = 52 := by
  simp [h]

theorem length_bodyImage_continuation {report : List Octet} (h : report.length = 64) :
    (memRead report 0 61).length = 61 := by
  simp [h]

/-- A first report in `IDLE`: the header's diagnostic, a whole frame, or an open transfer (R186, R187). -/
theorem rxIdle_first {report : List Octet} {s : State} (hl : report.length = 64) :
    rxIdle 1 report s =
      match hdrDec s.cfg (memRead report 0 8) with
      | .error r => failEntry { r with seq := 1 } s
      | .ok h =>
        if h.bodyLength.toNat ≤ 52 then
          rxReturn .idle (.frame ((memRead report 8 52).take h.bodyLength.toNat) h.protocolId h.emiId
            h.manufacturerCode) s
        else rxReturn (.collecting (openTransfer h (memRead report 8 52))) .noFrame s := by
  unfold rxIdle
  rw [bodyDec_first (length_bodyImage_first hl)]
  cases hdrDec s.cfg (memRead report 0 8) <;> simp

/-- The awaited report in `COLLECTING` (R189). -/
theorem rxCollecting_next {t : Transfer} {report : List Octet} {s : State} (hl : report.length = 64) :
    rxCollecting t t.nextSeq report s =
      if t.count + takeCount t = t.bodyLength.toNat then
        rxReturn .idle (.frame ((appendSegment t (memRead report 0 61)).buf.take t.bodyLength.toNat) t.pid t.emi
          t.mfr) s
      else
        rxReturn (.collecting { appendSegment t (memRead report 0 61) with nextSeq := t.nextSeq + 1 }) .noFrame
          s := by
  unfold rxCollecting
  rw [bodyDec_continuation (length_bodyImage_continuation hl)]
  simp

/-- EVERYTHING `RX.REPORT` CAN DO (R195, R199): fail; complete from `IDLE`; open a transfer; complete one; go on. -/
theorem rxReport_cases (seq : Nat) (report : List Octet) (s : State) :
    (∃ r, RxFailure seq r ∧ rxReport seq report s = failEntry r s) ∨
    (s.rx = .idle ∧ seq = 1 ∧ Admitted s.cfg seq report ∧ ∃ h, hdrDec s.cfg (memRead report 0 8) = .ok h ∧
      h.bodyLength.toNat ≤ 52 ∧
      rxReport seq report s = rxReturn .idle (.frame ((memRead report 8 52).take h.bodyLength.toNat) h.protocolId
        h.emiId h.manufacturerCode) s) ∨
    (s.rx = .idle ∧ seq = 1 ∧ Admitted s.cfg seq report ∧ ∃ h, hdrDec s.cfg (memRead report 0 8) = .ok h ∧
      52 < h.bodyLength.toNat ∧
      rxReport seq report s = rxReturn (.collecting (openTransfer h (memRead report 8 52))) .noFrame s) ∨
    (∃ t, s.rx = .collecting t ∧ seq = t.nextSeq ∧ Admitted s.cfg seq report ∧
      t.count + takeCount t = t.bodyLength.toNat ∧
      rxReport seq report s = rxReturn .idle
        (.frame ((appendSegment t (memRead report 0 61)).buf.take t.bodyLength.toNat) t.pid t.emi t.mfr) s) ∨
    (∃ t, s.rx = .collecting t ∧ seq = t.nextSeq ∧ Admitted s.cfg seq report ∧
      t.count + takeCount t ≠ t.bodyLength.toNat ∧
      rxReport seq report s = rxReturn
        (.collecting { appendSegment t (memRead report 0 61) with nextSeq := t.nextSeq + 1 }) .noFrame s) := by
  by_cases hl : report.length = 64
  case neg =>
    exact .inl ⟨_, by simp [RxFailure, malformedLength, Reason.receiveSide], rxReport_wrong_length hl⟩
  by_cases hd : seq = 0 ∨ s.cfg.seqMax < seq
  case pos =>
    exact .inl ⟨_, by simp [RxFailure, unknownEnumValue, Reason.receiveSide], rxReport_outside_domain hl hd⟩
  have ha : Admitted s.cfg seq report := ⟨hl, by omega, by omega⟩
  cases hx : s.rx with
  | idle =>
    rw [rxReport_idle ha hx]
    by_cases h1 : seq = 1
    case neg =>
      exact .inl ⟨unexpectedContinuation seq, by simp [RxFailure, unexpectedContinuation, Reason.receiveSide],
        by simp [rxIdle, h1]⟩
    subst h1
    rw [rxIdle_first hl]
    cases hh : hdrDec s.cfg (memRead report 0 8) with
    | error r =>
      obtain ⟨hr, -, hf⟩ := hdrDec_error hh
      refine .inl ⟨{ r with seq := 1 }, ⟨rfl, ?_⟩, rfl⟩
      rcases hr with hr | hr | hr | hr <;> simp_all [Reason.receiveSide]
    | ok h =>
      by_cases hb : h.bodyLength.toNat ≤ 52
      · exact .inr (.inl ⟨rfl, rfl, ha, h, rfl, hb, by simp [hb]⟩)
      · exact .inr (.inr (.inl ⟨rfl, rfl, ha, h, rfl, by omega, by simp [hb]⟩))
  | collecting t =>
    rw [rxReport_collecting ha hx]
    by_cases hs : seq = t.nextSeq
    case neg =>
      exact .inl ⟨sequenceGapOrDuplicate t.nextSeq seq,
        by simp [RxFailure, sequenceGapOrDuplicate, Reason.receiveSide], by simp [rxCollecting, hs]⟩
    subst hs
    rw [rxCollecting_next hl]
    by_cases hc : t.count + takeCount t = t.bodyLength.toNat
    · exact .inr (.inr (.inr (.inl ⟨t, rfl, rfl, ha, hc, by simp [hc]⟩)))
    · exact .inr (.inr (.inr (.inr ⟨t, rfl, rfl, ha, hc, by simp [hc]⟩)))

theorem takeReport_next {seq : Nat} {report : List Octet} {s t : State} (h : takeReport seq report s = .next t) :
    seq < 2 ^ s.cfg.seqW ∧ t = rxReport seq report s := by
  by_cases hf : seq < 2 ^ s.cfg.seqW
  · simp only [takeReport, seqFits, hf, decide_true, if_true] at h
    exact ⟨hf, by injection h with h; exact h.symm⟩
  · simp [takeReport, seqFits, hf] at h

/-- A report whose `seq` fits the side-band is always taken. -/
theorem takeReport_of_fits {seq : Nat} {report : List Octet} {s : State} (h : seq < 2 ^ s.cfg.seqW) :
    takeReport seq report s = .next (rxReport seq report s) := by
  simp [takeReport, seqFits, h]

/-- EVERYTHING AN OPERATION CAN DO when it answers a next state: respond without touching the engine's state; take a
report; abort, with effect or without; reset. -/
theorem exec_cases {i : Instr} {s t : State} (h : exec i s = .next t) :
    (isPure i = true ∧ ∃ r, (∀ o, r ≠ .rx o) ∧ t = respond r s) ∨
    (∃ seq report, reportIn i = some (seq, report) ∧ seq < 2 ^ s.cfg.seqW ∧ t = rxReport seq report s) ∨
    (i = .rxAbort ∧ ∃ tr, s.rx = .collecting tr ∧ t = failEntry (abortedByCaller tr.bodyLength.toNat tr.count) s) ∨
    (i = .rxAbort ∧ s.rx = .idle ∧ t = rxReturn .idle .noFrame s) ∨
    (i = .reset ∧ t = { State.fresh s.cfg with requests := s.requests }) := by
  cases i with
  | pidDec code => injection h with h; exact .inl ⟨rfl, _, by simp, h.symm⟩
  | emiDec code => injection h with h; exact .inl ⟨rfl, _, by simp, h.symm⟩
  | mcDec code => injection h with h; exact .inl ⟨rfl, _, by simp, h.symm⟩
  | cap seq => injection h with h; exact .inl ⟨rfl, _, by simp, h.symm⟩
  | hdrEnc bodyLength pid emi =>
    simp only [exec, execHdrEnc] at h
    split at h
    · injection h with h; exact .inl ⟨rfl, _, by simp, h.symm⟩
    · cases h
  | hdrDec bytes =>
    injection h with h
    refine .inl ⟨rfl, _, ?_, h.symm⟩
    cases hdrDec s.cfg bytes <;> simp [headerResponse]
  | hdrTob hdr =>
    simp only [exec, execHdrTob] at h
    split at h
    · injection h with h; exact .inl ⟨rfl, _, by simp, h.symm⟩
    · cases h
  | bodyEnc payload isPartial =>
    injection h with h
    refine .inl ⟨rfl, _, ?_, h.symm⟩
    cases bodyEnc payload isPartial <;> simp [bodyResponse]
  | bodyDec bytes =>
    injection h with h
    refine .inl ⟨rfl, _, ?_, h.symm⟩
    cases bodyDec bytes <;> simp [bodyResponse]
  | bodyTob body isPartial => injection h with h; exact .inl ⟨rfl, _, by simp, h.symm⟩
  | bodyMc body => injection h with h; exact .inl ⟨rfl, _, by simp, h.symm⟩
  | bodyLen body => injection h with h; exact .inl ⟨rfl, _, by simp, h.symm⟩
  | txFrag pid emi frame =>
    simp only [exec, execTxFrag] at h
    split at h
    case isFalse => cases h
    split at h
    case h_2 => cases h
    rename_i r hr
    injection h with h
    refine .inl ⟨rfl, r, ?_, h.symm⟩
    simp only [txFrag] at hr
    repeat' split at hr
    all_goals cases hr
    all_goals simp
  | rxReport seq report => exact .inr (.inl ⟨_, _, rfl, takeReport_next h⟩)
  | rxAbort =>
    simp only [exec, execRxAbort] at h
    split at h
    · rename_i tr hx
      injection h with h
      exact .inr (.inr (.inl ⟨rfl, tr, hx, h.symm⟩))
    · rename_i hx
      injection h with h
      exact .inr (.inr (.inr (.inl ⟨rfl, hx, h.symm⟩)))
  | reset => injection h with h; exact .inr (.inr (.inr (.inr ⟨rfl, h.symm⟩)))
  | reserved0 => cases h
  | hdr image =>
    injection h with h
    refine .inl ⟨rfl, _, ?_, h.symm⟩
    cases hdrDec s.cfg image.octets <;> simp [headerResponse]
  | rptFirst header body pad => exact .inr (.inl ⟨_, _, rfl, takeReport_next h⟩)
  | rptCont seq body pad => exact .inr (.inl ⟨_, _, rfl, takeReport_next h⟩)

end Sys2Proof.Machine
end

