-- ==== Sys2Proof/Laws/Encoding.lean ====
section
/-! SUPPORT. How the parts of a wire format are found again in its octets (spec/30_encoding.md R71 to R73). -/

namespace Sys2Proof

/-- The first part of a sequence, by its length. -/
theorem slice_append_first {a b : List Octet} {n : Nat} (h : a.length = n) : slice (a ++ b) 0 n = a := by
  simp [← h]

/-- A part in the middle of a sequence, by the lengths. -/
theorem slice_append_middle {a b c : List Octet} {i j : Nat} (hi : a.length = i) (hj : i + b.length = j) :
    slice (a ++ b ++ c) i j = b := by
  subst hi hj
  simp [slice_add, List.append_assoc]

/-- The last part of a sequence, by the lengths. -/
theorem slice_append_last {a b : List Octet} {i j : Nat} (hi : a.length = i) (hj : i + b.length = j) :
    slice (a ++ b) i j = b := by
  subst hi hj
  simp [slice_add]

/-- A report is its header image, body image and pad (R72). -/
theorem split_first_report (b : List Octet) (h : b.length = 64) :
    slice b 0 8 ++ slice b 8 60 ++ slice b 60 64 = b := by
  rw [slice_zero, take_append_slice b 8 60 (by omega), take_append_slice b 60 64 (by omega)]
  exact List.take_of_length_le (by omega)

/-- A report is its body image and pad (R73). -/
theorem split_continuation_report (b : List Octet) (h : b.length = 64) : slice b 0 61 ++ slice b 61 64 = b := by
  rw [slice_zero, take_append_slice b 61 64 (by omega)]
  exact List.take_of_length_le (by omega)

namespace Machine

/-- The parts that `RX.REPORT` reads of a first report given part by part (R72, R186). -/
theorem memRead_first_report {h : HdrImage} {body pad : List Octet} (hb : body.length = 52) :
    memRead (h.octets ++ body ++ pad) 0 8 = h.octets ∧ memRead (h.octets ++ body ++ pad) 8 52 = body := by
  constructor
  · rw [memRead, List.append_assoc]
    exact slice_append_first (HdrImage.length_octets h)
  · exact slice_append_middle (HdrImage.length_octets h) (by omega)

/-- The part that `RX.REPORT` reads of a continuation report (R73, R189). -/
theorem memRead_continuation_report {body pad : List Octet} (hb : body.length = 61) :
    memRead (body ++ pad) 0 61 = body :=
  slice_append_first hb

end Machine

end Sys2Proof
end

