-- ==== Sys2Proof/Laws/Frames.lean ====
section
/-! SUPPORT. What operations leave alone and what they do not depend on; sequences of operations; the way of a frame's
continuation reports through the reassembler. -/

namespace Sys2Proof.Machine

open Sys2Proof

/-- The default parameters meet the constraints of R8. -/
theorem Config.default_ok : Config.default.Ok := by constructor <;> decide

/-- A sequence number of the domain fits the side-band (R8). -/
theorem seq_fits {c : Config} (hc : c.Ok) {seq : Nat} (h : seq ≤ c.seqMax) : seq < 2 ^ c.seqW := by
  have := hc.seqW_wide; omega

/-- The saturating increment as a minimum. -/
theorem satInc_eq_min (w n : Nat) : satInc w n = min (n + 1) (2 ^ w - 1) := by
  unfold satInc; split <;> omega

/-! ## Frames -/

/-- `RX.REPORT` writes neither the parameters nor the stream of requests. -/
theorem rxReport_frame (seq : Nat) (report : List Octet) (s : State) :
    (rxReport seq report s).cfg = s.cfg ∧ (rxReport seq report s).requests = s.requests := by
  rcases rxReport_cases seq report s with
    ⟨r, -, h⟩ | ⟨-, -, -, h, -, -, h'⟩ | ⟨-, -, -, h, -, -, h'⟩ | ⟨_, _, _, _, _, h'⟩ | ⟨_, _, _, _, _, h'⟩
  · rw [h]; simp
  all_goals rw [h']; simp

/-- No operation writes the parameters or the stream of requests (R35, R59). -/
theorem exec_frame {i : Instr} {s t : State} (h : exec i s = .next t) :
    t.cfg = s.cfg ∧ t.requests = s.requests := by
  rcases exec_cases h with ⟨-, r, -, rfl⟩ | ⟨_, _, -, -, rfl⟩ | ⟨-, _, -, rfl⟩ | ⟨-, -, rfl⟩ | ⟨-, rfl⟩
  case inr.inl => exact rxReport_frame _ _ _
  all_goals simp

/-- EVERYTHING A STEP CAN DO when it answers a next state: stay idle, with no request or at an input that requests
nothing, or perform the oldest request. -/
theorem step_cases {s t : State} (h : step s = .next t) :
    (s.requests = [] ∧ t = stayIdle s) ∨
    ∃ r rest, s.requests = r :: rest ∧
      ((decode r = .error .resetNotAsserted ∧ t = stayIdle { s with requests := rest }) ∨
        ∃ i, decode r = .ok i ∧ exec i { s with requests := rest } = .next t) := by
  unfold step at h
  split at h
  · rename_i hr
    injection h with h
    exact .inl ⟨hr, h.symm⟩
  · rename_i r rest hr
    refine .inr ⟨r, rest, hr, ?_⟩
    split at h
    · rename_i hd
      injection h with h
      exact .inl ⟨hd, h.symm⟩
    · rename_i i hd
      exact .inr ⟨i, hd, h⟩

/-- Everything `TX.FRAG` can do: all the reports, or `FrameTooLarge` (R161, R162). -/
theorem txFrag_cases {s t : State} {pid : ProtocolId} {emi : EmiId} {frame : List Octet}
    (h : exec (.txFrag pid emi frame) s = .next t) :
    (∃ b, hdrTob s.cfg (hdrEnc (BitVec.ofNat 16 frame.length) pid emi) = some b ∧ b.length = 8 ∧
      t = respond (.reports (fragReports b frame)) s) ∨
    t = respond (.txFail (frameTooLarge s.cfg.maxFrameLen frame.length)) s := by
  simp only [exec, execTxFrag] at h
  split at h
  case isFalse => cases h
  rename_i hm
  rw [membersOk_iff] at hm
  obtain ⟨b, hb, hbl⟩ : ∃ b, hdrTob s.cfg (hdrEnc (BitVec.ofNat 16 frame.length) pid emi) = some b ∧ b.length = 8 :=
    hdrTob_of_members hm.1 hm.2
  unfold txFrag at h
  by_cases hl : frame.length > s.cfg.maxFrameLen
  · simp only [hl, if_true] at h
    injection h with h
    exact .inr h.symm
  · simp only [hl, if_false, hb] at h
    injection h with h
    exact .inl ⟨b, hb, hbl, h.symm⟩

/-- What `RX.REPORT` does to the response and the receive context depends on the parameters and the context alone; and
what it does to the counter and the status on these two besides (R28, R63). -/
theorem rxReport_congr {seq : Nat} {report : List Octet} {s t : State} (hc : s.cfg = t.cfg) (hx : s.rx = t.rx) :
    (rxReport seq report s).response = (rxReport seq report t).response ∧
    (rxReport seq report s).rx = (rxReport seq report t).rx ∧
    (s.rxFailCount = t.rxFailCount → s.status = t.status →
      (rxReport seq report s).rxFailCount = (rxReport seq report t).rxFailCount ∧
      (rxReport seq report s).status = (rxReport seq report t).status) := by
  have fe : ∀ r, (failEntry r s).response = (failEntry r t).response ∧ (failEntry r s).rx = (failEntry r t).rx ∧
      (s.rxFailCount = t.rxFailCount → s.status = t.status →
        (failEntry r s).rxFailCount = (failEntry r t).rxFailCount ∧
        (failEntry r s).status = (failEntry r t).status) := by simp +contextual [hc]
  have re : ∀ x o, (rxReturn x o s).response = (rxReturn x o t).response ∧ (rxReturn x o s).rx = (rxReturn x o t).rx ∧
      (s.rxFailCount = t.rxFailCount → s.status = t.status →
        (rxReturn x o s).rxFailCount = (rxReturn x o t).rxFailCount ∧
        (rxReturn x o s).status = (rxReturn x o t).status) := by simp +contextual
  unfold rxReport rxIdle rxCollecting
  rw [← hc, ← hx]
  dsimp only
  repeat' split
  all_goals first | exact fe _ | exact re _ _

/-! ## Sequences of operations -/

/-- A sequence is its first operation and the rest (R59 (a)). -/
theorem runOps_cons {i : Instr} {is : List Instr} {s s' s'' : State} {rs : List Response}
    (h : exec i s = .next s') (h' : runOps is s' = .next (rs, s'')) :
    runOps (i :: is) s = .next (s'.response.toList ++ rs, s'') := by
  simp [runOps, h, h']

/-- Neighbouring segments of a frame are one piece of it (R76). -/
theorem flatten_segments (frame : List Octet) (off m : Nat) :
    ((List.range m).map fun k => slice frame (off + 61 * k) (off + 61 * k + 61)).flatten =
      slice frame off (off + 61 * m) := by
  induction m with
  | zero => simp [slice_eq]
  | succ m ih =>
    rw [List.range_succ, List.map_append, List.flatten_append, ih]
    simp only [List.map_cons, List.map_nil, List.flatten_cons, List.flatten_nil, List.append_nil]
    rw [slice_add, slice_add, show off + 61 * (m + 1) = off + (61 * m + 61) by omega, slice_add, List.take_add]
    simp [List.drop_drop]

/-- The awaited report of a frame that has arrived as far as `rx_count`: it completes the frame, or brings it 61 octets
further (R189). -/
theorem exec_awaited_segment {s : State} {t : Transfer} {f : List Octet} (hc : s.cfg.Ok)
    (hx : s.rx = .collecting t) (hl : t.bodyLength.toNat = f.length) (hbuf : t.buf = f.take t.count)
    (hcnt : t.count < f.length) (h1 : 1 ≤ t.nextSeq) (hm : t.nextSeq ≤ s.cfg.seqMax) :
    exec (.rxReport t.nextSeq
        (bodyTob (toBody (bodyEnc (slice f t.count (t.count + capCont)) true)) true ++ zeros 3)) s =
      if f.length ≤ t.count + 61 then .next (rxReturn .idle (.frame f t.pid t.emi t.mfr) s)
      else .next (rxReturn
        (.collecting { t with count := t.count + 61, nextSeq := t.nextSeq + 1, buf := f.take (t.count + 61) })
        .noFrame s) := by
  rw [contReport_eq]
  have hlen : (slice f t.count (t.count + 61) ++
      zeros (64 - (slice f t.count (t.count + 61)).length)).length = 64 := by simp; omega
  have hbl : t.buf.length = t.count := by rw [hbuf]; simp; omega
  have m0 : ∀ c, memRead c 0 61 = c.take 61 := by intro c; simp [memRead]
  have htk : takeCount t = min 61 (f.length - t.count) := by rw [takeCount, hl]
  simp only [exec, execRxReport, takeReport_of_fits (seq_fits hc hm), rxReport_collecting ⟨hlen, h1, hm⟩ hx,
    rxCollecting_next hlen, m0]
  by_cases hb : f.length ≤ t.count + 61
  · have e : slice f t.count (t.count + 61) = f.drop t.count := by
      rw [slice_add]; exact List.take_of_length_le (by simp; omega)
    have c : t.count + takeCount t = t.bodyLength.toNat := by omega
    have e' : ((f.drop t.count ++ zeros (64 - (f.drop t.count).length)).take 61).take (f.length - t.count) =
        f.drop t.count := by
      rw [List.take_take, Nat.min_eq_left (by omega), List.take_append_of_le_length (by simp),
        List.take_of_length_le (by simp)]
    rw [if_pos c, if_pos hb, buf_appendSegment hbl, e, htk, hbuf, Nat.min_eq_right (by omega), e',
      List.take_append_drop, List.take_of_length_le (by omega)]
  · have c : t.count + takeCount t ≠ t.bodyLength.toNat := by omega
    have hs : (slice f t.count (t.count + 61)).length = 61 := by simp; omega
    have e : (slice f t.count (t.count + 61) ++ zeros (64 - (slice f t.count (t.count + 61)).length)).take 61 =
        slice f t.count (t.count + 61) := by
      rw [List.take_append_of_le_length (by omega), List.take_of_length_le (by omega)]
    have hk : takeCount t = 61 := by omega
    have e' : appendSegment t (slice f t.count (t.count + 61)) =
        { t with buf := f.take (t.count + 61), count := t.count + 61 } := by
      have h := buf_appendSegment hbl (slice f t.count (t.count + 61))
      rw [hk, List.take_of_length_le (by omega), hbuf, take_append_slice _ _ _ (by omega)] at h
      rw [← h]
      simp only [appendSegment, hk]
    rw [if_neg c, if_neg hb, e, e']

/-- The continuation reports of a frame, fed in order to an engine that has its first report, end in the frame (R169). -/
theorem runOps_feed_fragLoop (f : List Octet) (n : Nat) (s : State) (t : Transfer) (hc : s.cfg.Ok)
    (hx : s.rx = .collecting t) (hl : t.bodyLength.toNat = f.length) (hbuf : t.buf = f.take t.count)
    (hcnt : t.count < f.length) (h1 : 1 ≤ t.nextSeq) (hn : (f.length - t.count + 60) / 61 ≤ n)
    (hm : t.nextSeq + (f.length - t.count + 60) / 61 ≤ s.cfg.seqMax + 1) :
    runOps (feed (fragLoop n f t.count t.nextSeq)) s = .next
      (List.replicate ((fragLoop n f t.count t.nextSeq).length - 1) (.rx .noFrame) ++
          [.rx (.frame f t.pid t.emi t.mfr)],
        rxReturn .idle (.frame f t.pid t.emi t.mfr) s) := by
  induction n generalizing s t with
  | zero => omega
  | succ n ih =>
    have hstep := exec_awaited_segment hc hx hl hbuf hcnt h1 (by omega)
    simp only [fragLoop, hcnt, if_true, feed, List.map_cons]
    by_cases hb : f.length ≤ t.count + 61
    · rw [if_pos hb] at hstep
      have hz : fragLoop n f (t.count + capCont) (t.nextSeq + 1) = [] := by
        cases n with
        | zero => rfl
        | succ n => simp [fragLoop, Nat.not_lt.2 hb]
      rw [hz, runOps_cons (rs := []) (is := List.map _ []) hstep rfl]
      simp
    · rw [if_neg hb] at hstep
      have hrest := ih (rxReturn (.collecting { t with
          count := t.count + 61, nextSeq := t.nextSeq + 1, buf := f.take (t.count + 61) }) .noFrame s) _ hc rfl hl
        rfl (show t.count + 61 < f.length by omega) (show 1 ≤ t.nextSeq + 1 by omega)
        (show (f.length - (t.count + 61) + 60) / 61 ≤ n by omega)
        (show t.nextSeq + 1 + (f.length - (t.count + 61) + 60) / 61 ≤ s.cfg.seqMax + 1 by omega)
      have hall := runOps_cons hstep hrest
      obtain ⟨j, hj⟩ : ∃ j, (fragLoop n f (t.count + 61) (t.nextSeq + 1)).length = j + 1 := by
        rw [fragLoop_eq _ _ _ _ (by omega)]
        exact ⟨(f.length - (t.count + 61) + 60) / 61 - 1, by simp; omega⟩
      refine hall.trans ?_
      simp only [List.length_cons, hj, rxReturn_response]
      simp [rxReturn, List.replicate_succ]

end Sys2Proof.Machine
end

