-- ==== Sys2Proof/Laws/PerInstr.lean ====
section
/-! SUPPORT. Statements made of every instruction: each is asked for on the input, and with the select code, that
spec/30_encoding.md R81 and R85 give its row. -/

namespace Sys2Proof.Laws

open Sys2Proof

/-- An input of the engine, with the select code on the request port. -/
inductive Port where
  | op (select : Nat)
  | resetInput
  | wireHeader
  | wireReport
  deriving DecidableEq, Repr

/-- Where a request stands. -/
def portOf : Request → Port
  | .op select _ => .op select.toNat
  | .resetPin _ => .resetInput
  | .headerImage _ => .wireHeader
  | .report _ _ => .wireReport

/-- The table of R81, with `RESET` and the wire rows of R85. -/
def tablePort : Instr → Port
  | .reserved0 => .op 0x0
  | .txFrag _ _ _ => .op 0x1
  | .rxReport _ _ => .op 0x2
  | .rxAbort => .op 0x3
  | .hdrEnc _ _ _ => .op 0x4
  | .hdrDec _ => .op 0x5
  | .hdrTob _ => .op 0x6
  | .bodyEnc _ _ => .op 0x7
  | .bodyDec _ => .op 0x8
  | .bodyTob _ _ => .op 0x9
  | .bodyMc _ => .op 0xA
  | .bodyLen _ => .op 0xB
  | .pidDec _ => .op 0xC
  | .emiDec _ => .op 0xD
  | .mcDec _ => .op 0xE
  | .cap _ => .op 0xF
  | .reset => .resetInput
  | .hdr _ => .wireHeader
  | .rptFirst _ _ _ => .wireReport
  | .rptCont _ _ _ => .wireReport

namespace SelectCode

/-- The instruction's encoding stands where its row says. -/
def Statement (i : Instr) : Prop := portOf (encode i) = tablePort i

theorem pidDec (code : Octet) : Statement (.pidDec code) := rfl
theorem emiDec (code : Octet) : Statement (.emiDec code) := rfl
theorem mcDec (code : Octet) : Statement (.mcDec code) := rfl
theorem cap (seq : Nat) : Statement (.cap seq) := rfl
theorem hdrEnc (bodyLength : U16) (pid : ProtocolId) (emi : EmiId) : Statement (.hdrEnc bodyLength pid emi) := rfl
theorem hdrDec (bytes : List Octet) : Statement (.hdrDec bytes) := rfl
theorem hdrTob (hdr : Header) : Statement (.hdrTob hdr) := rfl
theorem bodyEnc (payload : List Octet) (isPartial : Bool) : Statement (.bodyEnc payload isPartial) := rfl
theorem bodyDec (bytes : List Octet) : Statement (.bodyDec bytes) := rfl
theorem bodyTob (body : Body) (isPartial : Bool) : Statement (.bodyTob body isPartial) := rfl
theorem bodyMc (body : Body) : Statement (.bodyMc body) := rfl
theorem bodyLen (body : Body) : Statement (.bodyLen body) := rfl
theorem txFrag (pid : ProtocolId) (emi : EmiId) (frame : List Octet) : Statement (.txFrag pid emi frame) := rfl
theorem rxReport (seq : Nat) (report : List Octet) : Statement (.rxReport seq report) := rfl
theorem rxAbort : Statement .rxAbort := rfl
theorem reset : Statement .reset := rfl
theorem reserved0 : Statement .reserved0 := rfl
theorem hdr (image : HdrImage) : Statement (.hdr image) := rfl
theorem rptFirst (header : HdrImage) (body pad : List Octet) : Statement (.rptFirst header body pad) := rfl
theorem rptCont (seq : Nat) (body pad : List Octet) : Statement (.rptCont seq body pad) := rfl

end SelectCode

end Sys2Proof.Laws
end

