-- ==== Sys2Proof/Tests/Slice0.lean ====
section
/-! SUPPORT. Small tests: well-formedness refuses ill-formed terms, words written out from spec/30_encoding.md decode
to their instructions, the vectors of spec/95_test_vectors.md come out, and every hypothesis of a statement is met
somewhere. The expected results are the spec's. -/

namespace Sys2Proof.Tests

open Sys2Proof Sys2Proof.Machine Sys2Proof.Statements

/-! ## Helpers -/

/-- The state an operation leads to. -/
def after (o : Host.Outcome State Fault Refusal) : Option State :=
  match o with
  | .next s => some s
  | .fault _ => none
  | .refused _ => none

/-- The response an operation gives. -/
def answer (o : Host.Outcome State Fault Refusal) : Option Response := (after o).bind (·.response)

/-- An engine with the default parameters, asked for nothing yet. -/
def idle : State := State.fresh Config.default

/-- `C(bl, n, k)` of spec/95_test_vectors.md 2.5: a transfer of `KNX_TUNNEL` and `CEMI` with `n` octets of value 7. -/
def transfer (bl : U16) (n k : Nat) : Transfer := ⟨bl, n, k, List.replicate n 7, .knxTunnel, .cemi, 0⟩

/-- An engine in `COLLECTING`. -/
def collecting (t : Transfer) : State := { idle with rx := .collecting t }

/-- The header octets of vector H1. -/
def headerH1 : List Octet := [0x00, 0x08, 0x00, 0x0B, 0x01, 0x03, 0x00, 0x00]

/-- The 11-octet frame of spec/95_test_vectors.md. -/
def f11 : List Octet := [0x11, 0x00, 0xBC, 0xE0, 0x00, 0x00, 0x08, 0x01, 0x01, 0x00, 0x81]

/-- The report of vectors T1 and X1. -/
def reportT1 : List Octet := headerH1 ++ f11 ++ List.replicate 45 0

/-- A first report with `body_length` `h` × 256 + `l`, all its payload octets `o`. -/
def firstReport (h l o : Octet) : List Octet :=
  [0x00, 0x08, h, l, 0x01, 0x03, 0x00, 0x00] ++ List.replicate 52 o ++ List.replicate 4 0

/-- The image of a header with members of the default tables. -/
def imageOf (bodyLength : U16) : HdrImage := ⟨0x00, 0x08, bodyLength, 0x01, 0x03, 0x0000⟩

/-- The header of vectors X1 and X2: only its `body_length` differs. -/
def headerOf (bodyLength : U16) : HeaderFields := ⟨0, 8, bodyLength, .knxTunnel, .cemi, 0⟩

/-! ## Well-formedness refuses -/

/-- R74: 16 does not fit the 4-bit side-band; 15 does. -/
theorem test_wf_seq_width : Instr.wf .default (.cap 16) = false ∧ Instr.wf .default (.rxReport 16 []) = false ∧
    Instr.wf .default (.cap 15) = true := by decide

/-- R121, R160: a name outside `PID_TABLE`. -/
theorem test_wf_members : Instr.wf .default (.hdrEnc 1 (.other 9) .cemi) = false ∧
    Instr.wf .default (.txFrag (.other 9) .cemi [1]) = false := by decide

/-- R121, R160: a name outside an `EMI_TABLE` that lists too few. -/
theorem test_wf_emi_member :
    Instr.wf { Config.default with emiTable := [(1, .emi1)] } (.hdrEnc 1 .knxTunnel .cemi) = false ∧
    Instr.wf { Config.default with emiTable := [(1, .emi1)] } (.txFrag .knxTunnel .cemi []) = false := by decide

/-- R125: a valid header has version 0, length 8 and members. -/
theorem test_wf_header :
    Instr.wf .default (.hdrTob (.valid { headerOf 11 with protocolVersion := 1 })) = false ∧
    Instr.wf .default (.hdrTob (.valid { headerOf 11 with headerLength := 7 })) = false ∧
    Instr.wf .default (.hdrTob (.valid { headerOf 11 with protocolId := .other 9 })) = false ∧
    Instr.wf { Config.default with emiTable := [(1, .emi1)] } (.hdrTob (.valid (headerOf 11))) = false := by decide

/-- R140: a body over the capacity of its kind. -/
theorem test_wf_body :
    Instr.wf .default (.bodyTob (.valid ⟨List.replicate 53 0, false⟩) false) = false ∧
    Instr.wf .default (.bodyMc (.valid ⟨List.replicate 53 0, false⟩)) = false ∧
    Instr.wf .default (.bodyLen (.valid ⟨List.replicate 62 0, true⟩)) = false := by decide

/-- R82: the reserved select code is no operation. -/
theorem test_wf_reserved : Instr.wf .default .reserved0 = false := by decide

/-- R71: the fixed octets of a header image. -/
theorem test_wf_image : Instr.wf .default (.hdr { imageOf 11 with protocolVersion := 1 }) = false ∧
    Instr.wf .default (.hdr { imageOf 11 with headerLength := 9 }) = false := by decide

/-- R72: the parts of a first report. -/
theorem test_wf_first :
    Instr.wf .default (.rptFirst { imageOf 11 with protocolVersion := 1 } (zeros 52) (zeros 4)) = false ∧
    Instr.wf .default (.rptFirst (imageOf 11) (zeros 51) (zeros 4)) = false ∧
    Instr.wf .default (.rptFirst (imageOf 11) (zeros 52) (zeros 5)) = false ∧
    Instr.sized (.rptFirst (imageOf 11) (zeros 51) (zeros 4)) = false ∧
    Instr.sized (.rptFirst (imageOf 11) (zeros 52) (zeros 5)) = false := by decide

/-- R73, R74: the parts of a continuation report and its side-band. -/
theorem test_wf_continuation :
    Instr.wf .default (.rptCont 1 (zeros 61) (zeros 3)) = false ∧
    Instr.wf .default (.rptCont 6 (zeros 61) (zeros 3)) = false ∧
    Instr.wf .default (.rptCont 2 (zeros 60) (zeros 3)) = false ∧
    Instr.wf .default (.rptCont 2 (zeros 61) (zeros 4)) = false ∧
    Instr.sized (.rptCont 1 (zeros 61) (zeros 3)) = false ∧
    Instr.sized (.rptCont 2 (zeros 60) (zeros 3)) = false ∧
    Instr.sized (.rptCont 2 (zeros 61) (zeros 4)) = false := by decide

/-! ## Decoding, from words written out bit by bit -/

/-- R81: the select codes, each as the four bits of the table. -/
theorem test_decode_select_words :
    decodeTableWord 8 0b0001 = some (.txFrag .knxTunnel .emi1 []) ∧
    decodeTableWord 8 0b0010 = some (.rxReport 0 []) ∧
    decodeTableWord 8 0b0011 = some .rxAbort ∧
    decodeTableWord 8 0b0100 = some (.hdrEnc 0 .knxTunnel .emi1) ∧
    decodeTableWord 8 0b0101 = some (.hdrDec []) ∧
    decodeTableWord 8 0b0110 = some (.hdrTob .invalid) ∧
    decodeTableWord 8 0b0111 = some (.bodyEnc [] false) ∧
    decodeTableWord 8 0b1000 = some (.bodyDec []) ∧
    decodeTableWord 8 0b1001 = some (.bodyTob .invalid false) ∧
    decodeTableWord 8 0b1010 = some (.bodyMc .invalid) ∧
    decodeTableWord 8 0b1011 = some (.bodyLen .invalid) ∧
    decodeTableWord 8 0b1100 = some (.pidDec 0) ∧
    decodeTableWord 8 0b1101 = some (.emiDec 0) ∧
    decodeTableWord 8 0b1110 = some (.mcDec 0) ∧
    decodeTableWord 8 0b1111 = some (.cap 0) ∧
    decodeTableWord 8 0b0000 = some .reserved0 := by decide

/-- R81, R85: the one-bit reset input. -/
theorem test_decode_reset_pin : decodeTableWord 1 0b1 = some .reset ∧ decodeTableWord 1 0b0 = none ∧
    decode (.resetPin 1) = .ok .reset ∧ decode (.resetPin 0) = .error .resetNotAsserted := by decide

/-- R85, R226, R236: at the reset input 0 nothing is requested, and a transfer in flight stays. -/
theorem test_reset_input_low : step { collecting (transfer 120 52 2) with requests := [.resetPin 0, .resetPin 1] } =
    .next { collecting (transfer 120 52 2) with requests := [.resetPin 1] } := rfl

/-- R71, R85: version 0, header length 8, `body_length` 263, codes 01 and 03, manufacturer code 0x1234, as one 64-bit
big-endian word. -/
theorem test_decode_header_word :
    decodeTableWord 64 0x0008010701031234 = some (.hdr ⟨0x00, 0x08, 263, 0x01, 0x03, 0x1234⟩) := by decide

/-- R72: a first report: the header at offset 0, the body image at 8, the pad at 60. -/
theorem test_decode_first_report :
    decode (.report 1 ([0x00, 0x08, 0x00, 0x35, 0x01, 0x03, 0x12, 0x34] ++ 0xAA :: List.replicate 51 0x02
      ++ [0x03, 0x04, 0x05, 0x06])) =
    .ok (.rptFirst ⟨0x00, 0x08, 0x0035, 0x01, 0x03, 0x1234⟩ (0xAA :: List.replicate 51 0x02)
      [0x03, 0x04, 0x05, 0x06]) := by decide

/-- R73: a continuation report: the body image at offset 0, the pad at 61; octets that look like a header stay payload. -/
theorem test_decode_continuation_report :
    decode (.report 2 ([0x00, 0x08] ++ List.replicate 59 0x02 ++ [0x03, 0x04, 0x05])) =
    .ok (.rptCont 2 ([0x00, 0x08] ++ List.replicate 59 0x02) [0x03, 0x04, 0x05]) := by decide

/-- The report formats as table words, the side-band above bit 512: the same octets are either format, by the side-band
alone (R85, log 4). -/
theorem test_decode_report_words :
    decodeTableWord 520 (2 ^ 256 * 2 ^ 256 + 0x0008000B01030000) = some (.rptFirst (imageOf 11) (zeros 52) (zeros 4)) ∧
    decodeTableWord 520 (2 * (2 ^ 256 * 2 ^ 256)) = some (.rptCont 2 (zeros 61) (zeros 3)) ∧
    decodeTableWord 520 (2 * (2 ^ 256 * 2 ^ 256) + 0x0008000B01030000) =
      some (.rptCont 2 (headerH1 ++ zeros 53) (zeros 3)) ∧
    decodeTableWord 512 0 = some (.rptCont 0 (zeros 61) (zeros 3)) := by decide

/-- R54, R184: octets of another length are in no wire format. -/
theorem test_decode_wrong_lengths : decode (.report 1 (zeros 63)) = .ok (.rxReport 1 (zeros 63)) ∧
    decode (.headerImage (zeros 7)) = .ok (.hdrDec (zeros 7)) := by decide

/-! ## The operations, on the vectors of spec/95_test_vectors.md -/

/-- K1, K4. -/
theorem test_pid_dec : answer (exec (.pidDec 0x01) idle) = some (.protocolId (.ok .knxTunnel)) ∧
    answer (exec (.pidDec 0x04) idle) = some (.protocolId (.unknownEnumValue 0x04)) := by decide

/-- K8, K9. -/
theorem test_emi_dec : answer (exec (.emiDec 0x03) idle) = some (.emiId (.ok .cemi)) ∧
    answer (exec (.emiDec 0x00) idle) = some (.emiId (.unknownEnumValue 0x00)) := by decide

/-- K12, K14. -/
theorem test_mc_dec : answer (exec (.mcDec 0x29) idle) = some (.messageCode (.ok .lDataInd)) ∧
    answer (exec (.mcDec 0x00) idle) = some (.messageCode (.unknownEnumValue 0x00)) := by decide

/-- K15, K16, K17, K18, K19. -/
theorem test_cap : answer (exec (.cap 1) idle) = some (.capacity (.ok 52)) ∧
    answer (exec (.cap 2) idle) = some (.capacity (.ok 61)) ∧
    answer (exec (.cap 5) idle) = some (.capacity (.ok 61)) ∧
    answer (exec (.cap 0) idle) = some (.capacity (.unknownEnumValue 0)) ∧
    answer (exec (.cap 6) idle) = some (.capacity (.unknownEnumValue 6)) := by decide

/-- The example of R121. -/
theorem test_hdr_enc : answer (exec (.hdrEnc 11 .knxTunnel .cemi) idle) =
    some (.header (.valid ⟨0, 8, 11, .knxTunnel, .cemi, 0x0000⟩) none) := by decide

/-- H10, H11, H12: which of several reasons is reported. -/
theorem test_hdr_dec_order :
    answer (exec (.hdrDec [0x01, 0x08, 0x00, 0x0B, 0x7F, 0x03, 0x00, 0x00]) idle) =
      some (.header .invalid (some ⟨.unknownEnumValue, 0, .protocolId, 0, 0x7F⟩)) ∧
    answer (exec (.hdrDec [0x01, 0x07, 0x00, 0x0B, 0x01, 0x00, 0x00, 0x00]) idle) =
      some (.header .invalid (some ⟨.unknownEnumValue, 0, .emiId, 0, 0x00⟩)) ∧
    answer (exec (.hdrDec [0x01, 0x07, 0x00, 0x0B, 0x01, 0x03, 0x00, 0x00]) idle) =
      some (.header .invalid (some ⟨.protocolVersionMismatch, 0, .seq, 0, 1⟩)) := by decide

/-- H4, H9, H13. -/
theorem test_hdr_dec :
    answer (exec (.hdrDec [0x00, 0x08, 0x00, 0x0B, 0x01, 0x03, 0x00]) idle) =
      some (.header .invalid (some ⟨.malformedLength, 0, .seq, 8, 7⟩)) ∧
    answer (exec (.hdrDec [0x00, 0x07, 0x00, 0x0B, 0x01, 0x03, 0x00, 0x00]) idle) =
      some (.header .invalid (some ⟨.headerLengthMismatch, 0, .seq, 8, 7⟩)) ∧
    answer (exec (.hdrDec [0x00, 0x08, 0x00, 0x03, 0x02, 0x01, 0x12, 0x34]) idle) =
      some (.header (.valid ⟨0, 8, 3, .mBusTunnel, .emi1, 0x1234⟩) none) := by decide

/-- H2, H14, H15. -/
theorem test_hdr_tob :
    answer (exec (.hdrTob (.valid (headerOf 263))) idle) =
      some (.octets [0x00, 0x08, 0x01, 0x07, 0x01, 0x03, 0x00, 0x00]) ∧
    answer (exec (.hdrTob (.valid ⟨0, 8, 3, .mBusTunnel, .emi1, 0x1234⟩)) idle) =
      some (.octets [0x00, 0x08, 0x00, 0x03, 0x02, 0x01, 0x12, 0x34]) ∧
    answer (exec (.hdrTob .invalid) idle) = some (.octets []) := by decide

/-- B5, B6. -/
theorem test_body_enc :
    answer (exec (.bodyEnc (List.replicate 53 0xAA) false) idle) =
      some (.body .invalid (some ⟨.capacityExceeded, 0, .seq, 52, 53⟩)) ∧
    answer (exec (.bodyEnc (List.replicate 53 0xAA) true) idle) =
      some (.body (.valid ⟨List.replicate 53 0xAA, true⟩) none) := by decide

/-- B13, B14. -/
theorem test_body_dec :
    answer (exec (.bodyDec (List.replicate 61 0x00)) idle) =
      some (.body (.valid ⟨List.replicate 61 0x00, true⟩) none) ∧
    answer (exec (.bodyDec (List.replicate 60 0x00)) idle) =
      some (.body .invalid (some ⟨.malformedLength, 0, .seq, 52, 60⟩)) := by decide

/-- B2, B10. -/
theorem test_body_tob :
    answer (exec (.bodyTob (.valid ⟨[0x11, 0x00, 0xBC], true⟩) true) idle) =
      some (.octets ([0x11, 0x00, 0xBC] ++ List.replicate 58 0)) ∧
    answer (exec (.bodyTob (.valid ⟨List.replicate 53 0xAA, true⟩) false) idle) = some (.octets []) := by decide

/-- B15, B16, B17. -/
theorem test_body_mc :
    answer (exec (.bodyMc (.valid ⟨[0x11, 0x00, 0xBC], false⟩)) idle) = some (.emiMessageCode (some 0x11)) ∧
    answer (exec (.bodyMc (.valid ⟨[0x11, 0x00, 0xBC], true⟩)) idle) = some (.emiMessageCode none) ∧
    answer (exec (.bodyMc (.valid ⟨[], false⟩)) idle) = some (.emiMessageCode none) := by decide

/-- B19, B21. -/
theorem test_body_len :
    answer (exec (.bodyLen (.valid ⟨[0x11, 0x00, 0xBC], false⟩)) idle) = some (.length (some 3)) ∧
    answer (exec (.bodyLen .invalid) idle) = some (.length none) := by decide

/-- T1. -/
theorem test_tx_frag_single : answer (exec (.txFrag .knxTunnel .cemi f11) idle) =
    some (.reports [(1, reportT1)]) := by decide

/-- T4: the smallest frame of two reports; octet `i` is `i` + 1. -/
theorem test_tx_frag_two :
    answer (exec (.txFrag .knxTunnel .cemi ((List.range 53).map fun i => BitVec.ofNat 8 (i + 1))) idle) =
    some (.reports [
      (1, [0x00, 0x08, 0x00, 0x35, 0x01, 0x03, 0x00, 0x00] ++ (List.range 52).map (fun i => BitVec.ofNat 8 (i + 1))
        ++ List.replicate 4 0),
      (2, 0x35 :: List.replicate 63 0)]) := by decide

/-- X17: octets beyond `body_length` and in the pad are not looked at. -/
theorem test_rx_report_single :
    answer (exec (.rxReport 1 (headerH1 ++ f11 ++ 0x77 :: List.replicate 40 0 ++ [0xFF, 0x00, 0x00, 0xEE])) idle) =
      some (.rx (.frame f11 .knxTunnel .cemi 0)) := by decide

/-- X3 and X8: the last report of a transfer, and a first report in its place. -/
theorem test_rx_report_collecting :
    answer (exec (.rxReport 2 (0x35 :: List.replicate 63 0)) (collecting (transfer 53 52 2))) =
      some (.rx (.frame (List.replicate 52 7 ++ [0x35]) .knxTunnel .cemi 0)) ∧
    after (exec (.rxReport 1 reportT1) (collecting (transfer 120 52 2))) = some { idle with
      rxFailCount := 1
      status := ⟨.sequenceGapOrDuplicate, 1, .seq, 2, 1⟩
      response := some (.rx (.fail ⟨.sequenceGapOrDuplicate, 1, .seq, 2, 1⟩)) } := by decide

/-- X21, X22. -/
theorem test_rx_abort :
    answer (exec .rxAbort (collecting (transfer 120 113 3))) = some (.rx (.fail ⟨.abortedByCaller, 0, .seq, 120, 113⟩)) ∧
    after (exec .rxAbort { idle with rxFailCount := 3 }) =
      some { idle with rxFailCount := 3, response := some (.rx .noFrame) } := by decide

/-- X24. -/
theorem test_reset : after (exec .reset { collecting (transfer 120 52 2) with
    rxFailCount := 3, status := ⟨.unexpectedContinuation, 2, .seq, 1, 2⟩ }) = some idle := by decide

/-- R82. -/
theorem test_reserved : exec .reserved0 idle = .refused .reservedSelect := rfl

/-- H6, as a header image on its own. -/
theorem test_hdr : answer (exec (.hdr { imageOf 11 with protocolId := 0x7F }) idle) =
    some (.header .invalid (some ⟨.unknownEnumValue, 0, .protocolId, 0, 0x7F⟩)) := by decide

/-- X2 and X15, as reports in format `RPT.FIRST`. -/
theorem test_rpt_first :
    (after (exec (.rptFirst (imageOf 53) (List.replicate 52 7) (zeros 4)) idle)).map (·.rx) =
      some (.collecting (transfer 53 52 2)) ∧
    answer (exec (.rptFirst { imageOf 11 with headerLength := 7 } (zeros 52) (zeros 4)) idle) =
      some (.rx (.fail ⟨.headerLengthMismatch, 1, .seq, 8, 7⟩)) := by decide

/-- X3 and X5, as reports in format `RPT.CONT`. -/
theorem test_rpt_cont :
    answer (exec (.rptCont 2 (0x35 :: zeros 60) (zeros 3)) (collecting (transfer 53 52 2))) =
      some (.rx (.frame (List.replicate 52 7 ++ [0x35]) .knxTunnel .cemi 0)) ∧
    answer (exec (.rptCont 2 (0x35 :: zeros 60) (zeros 3)) idle) =
      some (.rx (.fail ⟨.unexpectedContinuation, 2, .seq, 1, 2⟩)) := by decide

/-- X23: the counter stays at 2^32 − 1. -/
theorem test_counter_saturates :
    (after (exec (.rxReport 0 (zeros 64)) { idle with rxFailCount := 4294967295 })).map (·.rxFailCount) =
      some 4294967295 := by decide

/-- R83: the lines of K1 and of a `Frame`. -/
theorem test_text : instrText (.pidDec 0x01) = "PID.DEC code=0x01" ∧
    responseText (.protocolId (.ok .knxTunnel)) = "Ok(KNX_TUNNEL)" ∧
    responseText (.capacity (.unknownEnumValue 6)) = "Err(UnknownEnumValue(6))" := by decide

/-! ## Witnesses: each statement's hypotheses hold somewhere, at the boundaries of their ranges -/

theorem idle_ok : idle.cfg.Ok := Config.default_ok

theorem collecting_ok (t : Transfer) : (collecting t).cfg.Ok := Config.default_ok

/-- When `C(bl, n, k)` meets R30. -/
theorem transfer_inv {bl : U16} {n k : Nat} (h : 52 < bl.toNat ∧ 2 ≤ k ∧ k ≤ 6 ∧ n = 52 + 61 * (k - 2) ∧ n < bl.toNat) :
    (transfer bl n k).Inv Config.default :=
  ⟨h.1, h.2.1, h.2.2.1, h.2.2.2.1, h.2.2.2.2,
    by simp only [transfer, Config.rxBufLen, show Config.default.seqMax = 5 from rfl, capFirst, capCont]; omega,
    by simp [transfer], by simp [transfer]; decide, by simp [transfer]; decide⟩

theorem inv_297 : (transfer 297 296 6).Inv Config.default := transfer_inv (by decide)

theorem idle_inv : EngineInv idle := ⟨nofun, by constructor <;> decide, by decide⟩

/-- An engine with a sound transfer meets the invariant. -/
theorem collecting_inv {t : Transfer} (h : t.Inv Config.default) : EngineInv (collecting t) :=
  ⟨by intro t' ht'; cases ht'; exact h, idle_inv.status, idle_inv.counter⟩

/-- The largest single-report header (52) and the smallest two-report one (53), as decoded. -/
theorem decoded_52_53 :
    exec (.hdrDec ((firstReport 0 52 7).take 8)) idle = .next (answered idle (.header (.valid (headerOf 52)) none)) ∧
    exec (.hdrDec ((firstReport 0 53 7).take 8)) idle = .next (answered idle (.header (.valid (headerOf 53)) none)) :=
  ⟨rfl, rfl⟩

theorem witness_ReservedSelectIsRefused :
    { idle with requests := [.op 0x0 OperandBus.idle] }.requests = .op 0x0 OperandBus.idle :: [] := rfl

theorem witness_StepPerformsTheDecodedRequest :
    idle.requests = [] ∧
    { idle with requests := [.resetPin 1, .resetPin 0] }.requests = .resetPin 1 :: [.resetPin 0] ∧
    { idle with requests := [.resetPin 0] }.requests = .resetPin 0 :: [] ∧
    decode (.resetPin 1) = .ok .reset ∧ decode (.resetPin 0) = .error .resetNotAsserted := by decide

theorem witness_PlacedTableWordRunsNext : decodeTableWord 8 0x3 = some .rxAbort := by decide

theorem witness_DecodeEncodeGivesTheInstructionBack :
    Instr.sized (.rptFirst (imageOf 11) (zeros 52) (zeros 4)) = true ∧
    Instr.sized (.rptCont 0 (zeros 61) (zeros 3)) = true ∧ Instr.sized (.rptCont 2 (zeros 61) (zeros 3)) = true ∧
    Instr.sized (.pidDec 0xFF) = true := by decide

theorem witness_WireOctetsSurviveDecoding : (zeros 64).length = 64 ∧ headerH1.length = 8 := by decide

theorem witness_EveryWellFormedOperationAnswers : idle.cfg.Ok ∧
    [Instr.pidDec 0, .emiDec 0, .mcDec 0, .cap 15, .hdrEnc 0 .knxTunnel .cemi, .hdrDec [],
      .hdrTob (.valid (headerOf 11)), .bodyEnc (zeros 62) true, .bodyDec [], .bodyTob .invalid true,
      .bodyMc (.valid ⟨zeros 52, false⟩), .bodyLen (.valid ⟨zeros 61, true⟩), .txFrag .knxTunnel .emi1 [],
      .rxReport 15 [], .rxAbort, .reset, .hdr (imageOf 11), .rptFirst (imageOf 11) (zeros 52) (zeros 4),
      .rptCont 2 (zeros 61) (zeros 3), .rptCont 5 (zeros 61) (zeros 3)].all (Instr.wf idle.cfg) = true :=
  ⟨idle_ok, by decide⟩

theorem witness_StepKeepsTheParameters :
    step { idle with requests := [.resetPin 1] } = .next idle ∧ step idle = .next idle := ⟨rfl, rfl⟩

theorem witness_CatalogOperationsLookUpTheirTables : idle.cfg.Ok ∧
    (0x01, ProtocolId.knxTunnel) ∈ idle.cfg.pidTable ∧ (∀ m, (0x00, m) ∉ idle.cfg.pidTable) ∧
    (0x03, EmiId.cemi) ∈ idle.cfg.emiTable ∧ (∀ m, (0x04, m) ∉ idle.cfg.emiTable) ∧
    (0x2E, MessageCode.lDataCon) ∈ idle.cfg.mcTable ∧ (∀ m, (0x00, m) ∉ idle.cfg.mcTable) :=
  ⟨idle_ok, by decide, by simp [idle, State.fresh, Config.default], by decide,
    by simp [idle, State.fresh, Config.default], by decide, by simp [idle, State.fresh, Config.default]⟩

theorem witness_CatalogCodeAndDecodeAreInverse : Config.isCatalog Config.default.emiTable ∧
    catalogDecode Config.default.emiTable 0x02 = .ok .emi2 ∧ Config.isMember Config.default.emiTable .emi2 := by decide

theorem witness_CapAnswersTheCapacityOfItsKind : idle.cfg.Ok ∧ (1 : Nat) = 1 ∧ 2 ≤ 2 ∧ 2 ≤ idle.cfg.seqMax ∧ 2 ≤ 5 ∧
    5 ≤ idle.cfg.seqMax ∧ (0 : Nat) = 0 ∧ idle.cfg.seqMax < 6 := ⟨idle_ok, by decide⟩

/-- Two members, and a name that is none. -/
theorem witness_HdrEncBuildsAValidHeader : Config.isMember idle.cfg.pidTable .knxTunnel ∧
    Config.isMember idle.cfg.emiTable .cemi ∧
    ¬(Config.isMember idle.cfg.pidTable (.other 9) ∧ Config.isMember idle.cfg.emiTable .cemi) := by decide

theorem witness_HdrDecTestsInOrder : idle.cfg.Ok ∧ (zeros 7).length ≠ 8 ∧ (zeros 9).length ≠ 8 ∧
    (∀ m, (0x7F, m) ∉ idle.cfg.pidTable) ∧ (0x01, ProtocolId.knxTunnel) ∈ idle.cfg.pidTable ∧
    (∀ m, (0x00, m) ∉ idle.cfg.emiTable) ∧ (0x03, EmiId.cemi) ∈ idle.cfg.emiTable ∧
    (0x01 : Octet) ≠ 0 ∧ (0x00 : Octet) = 0 ∧ (0x07 : Octet) ≠ 8 ∧ (0x08 : Octet) = 8 :=
  ⟨idle_ok, by decide, by decide, by simp [idle, State.fresh, Config.default], by decide,
    by simp [idle, State.fresh, Config.default], by decide, by decide, by decide, by decide, by decide⟩

theorem witness_HdrTobSerializes : idle.cfg.Ok ∧ (0x01, (headerOf 263).protocolId) ∈ idle.cfg.pidTable ∧
    (0x03, (headerOf 263).emiId) ∈ idle.cfg.emiTable := ⟨idle_ok, by decide, by decide⟩

theorem witness_HeaderRoundTrip : idle.cfg.Ok ∧ Config.isMember idle.cfg.pidTable .knxTunnel ∧
    Config.isMember idle.cfg.emiTable .cemi := ⟨idle_ok, by decide, by decide⟩

/-- H13: a non-zero manufacturer code. -/
theorem witness_DecodedHeaderSerializesBack : idle.cfg.Ok ∧
    exec (.hdrDec [0x00, 0x08, 0x00, 0x03, 0x02, 0x01, 0x12, 0x34]) idle =
      .next (answered idle (.header (.valid ⟨0, 8, 3, .mBusTunnel, .emi1, 0x1234⟩) none)) := ⟨idle_ok, rfl⟩

theorem witness_DecodedHeaderValidIff : idle.cfg.Ok ∧ headerH1.length = 8 ∧
    (headerH1.getD 4 0, ProtocolId.knxTunnel) ∈ idle.cfg.pidTable ∧ (headerH1.getD 5 0, EmiId.cemi) ∈ idle.cfg.emiTable ∧
    headerH1.getD 0 0 = 0 ∧ headerH1.getD 1 0 = 8 ∧
    exec (.hdrDec headerH1) idle = .next (answered idle (.header (.valid (headerOf 11)) none)) ∧
    Config.isMember idle.cfg.pidTable .knxTunnel ∧ Config.isMember idle.cfg.emiTable .cemi :=
  ⟨idle_ok, by decide, by decide, by decide, by decide, by decide, rfl, by decide, by decide⟩

theorem witness_NamesOutsideTheTablesAreRefused :
    ¬(Config.isMember idle.cfg.pidTable (.other 9) ∧ Config.isMember idle.cfg.emiTable .cemi) ∧
    { headerOf 11 with protocolId := .other 9 }.protocolId = .other 9 ∧ (headerOf 11).emiId = .cemi := by decide

/-- Both sides of both capacities, as in `BodyEncKeepsToCapacity` and `BodyTobPadsToWidth`. -/
theorem witness_BodyEncKeepsToCapacity : 52 = (if false then 61 else 52) ∧ 61 = (if true then 61 else 52) ∧
    (zeros 52).length ≤ 52 ∧ 52 < (zeros 53).length ∧ (zeros 61).length ≤ 61 ∧ 61 < (zeros 62).length := by decide

theorem witness_BodyDecTellsTheKindByLength : (zeros 52).length = 52 ∧ (zeros 61).length = 61 ∧
    (zeros 53).length ≠ 52 ∧ (zeros 53).length ≠ 61 ∧ (zeros 60).length ≠ 52 ∧ (zeros 60).length ≠ 61 := by decide

theorem witness_BodyTobPadsToWidth : 52 = (if false then 61 else 52) ∧ 61 = (if true then 61 else 52) ∧
    52 < (BodyFields.mk (zeros 53) true).payload.length ∧ (BodyFields.mk (zeros 52) false).payload.length ≤ 52 ∧
    61 < (BodyFields.mk (zeros 62) true).payload.length ∧ (BodyFields.mk (zeros 61) true).payload.length ≤ 61 := by
  decide

theorem witness_BodyRoundTrip : 52 = (if false then 61 else 52) ∧ 61 = (if true then 61 else 52) ∧
    (zeros 52).length ≤ 52 ∧ (zeros 61).length ≤ 61 ∧ (zeros 0).length ≤ 52 := by decide

theorem witness_TxFragYieldsTheReportsOfTheFrame : idle.cfg.Ok ∧
    (0x01, ProtocolId.knxTunnel) ∈ idle.cfg.pidTable ∧ (0x03, EmiId.cemi) ∈ idle.cfg.emiTable ∧
    (zeros 263).length ≤ idle.cfg.maxFrameLen ∧ (zeros 0).length ≤ idle.cfg.maxFrameLen ∧
    idle.cfg.maxFrameLen < (zeros 264).length :=
  ⟨idle_ok, by decide, by decide, by rw [length_zeros]; decide, by rw [length_zeros]; decide,
    by rw [length_zeros]; decide⟩

theorem witness_TxFragRejectsAnOversizedFrameWhole : Config.isMember idle.cfg.pidTable .knxTunnel ∧
    Config.isMember idle.cfg.emiTable .cemi ∧ idle.cfg.maxFrameLen < (zeros 264).length :=
  ⟨by decide, by decide, by rw [length_zeros]; decide⟩

theorem witness_TxFragNeverReportsCapacityExceeded :
    exec (.txFrag .knxTunnel .cemi f11) idle = .next (answered idle (.reports [(1, reportT1)])) := rfl

/-- R162: one octet over the limit. -/
theorem witness_TxFragNeverReportsCapacityExceeded_failing :
    answer (exec (.txFrag .knxTunnel .cemi f11) { idle with cfg := { Config.default with maxFrameLen := 10 } }) =
      some (.txFail ⟨.frameTooLarge, 0, .seq, 10, 11⟩) := by decide

theorem witness_ReportsConcatenateToTheFrame :
    exec (.txFrag .knxTunnel .cemi f11) idle = .next (answered idle (.reports [(1, reportT1)])) ∧
    (answered idle (.reports [(1, reportT1)])).response = some (.reports [(1, reportT1)]) := ⟨rfl, rfl⟩

/-- At the defaults `SEQ_MAX` is just `NREP(MAX_FRAME_LEN)` (R163). -/
theorem witness_TagsStayOnTheSideBandWhenSetUp : idle.cfg.Ok ∧ configReady idle.cfg = true ∧
    exec (.txFrag .knxTunnel .cemi f11) idle = .next (answered idle (.reports [(1, reportT1)])) ∧
    (answered idle (.reports [(1, reportT1)])).response = some (.reports [(1, reportT1)]) := ⟨idle_ok, by decide, rfl, rfl⟩

/-- R262 (c) asks for more than R8: one report number fewer than the longest frame takes. -/
theorem test_config_not_ready : { Config.default with seqMax := 4 }.Ok ∧
    configReady { Config.default with seqMax := 4 } = false := ⟨by constructor <;> decide, by decide⟩

theorem witness_WrongReportLengthFails : 15 < 2 ^ idle.cfg.seqW ∧ (zeros 63).length ≠ 64 ∧ (zeros 65).length ≠ 64 := by
  decide

theorem witness_SeqOutsideTheDomainFails : 0 < 2 ^ idle.cfg.seqW ∧ 15 < 2 ^ idle.cfg.seqW ∧ (zeros 64).length = 64 ∧
    idle.cfg.seqMax < 6 ∧ idle.cfg.seqMax < 15 := by decide

theorem witness_SeqWiderThanTheSideBandIsRefused : 2 ^ idle.cfg.seqW ≤ 16 := by decide

theorem witness_ContinuationInIdleFails : idle.cfg.Ok ∧ idle.rx = .idle ∧ (zeros 64).length = 64 ∧ 2 ≤ 2 ∧
    2 ≤ idle.cfg.seqMax ∧ 2 ≤ 5 ∧ 5 ≤ idle.cfg.seqMax := ⟨idle_ok, by decide⟩

/-- X13. -/
theorem witness_InvalidHeaderFailsTheFirstReport : idle.cfg.Ok ∧ idle.rx = .idle ∧
    ([0x01, 0x08, 0x00, 0x0B, 0x7F, 0x03, 0x00, 0x00] ++ zeros 56).length = 64 ∧
    exec (.hdrDec (([0x01, 0x08, 0x00, 0x0B, 0x7F, 0x03, 0x00, 0x00] ++ zeros 56).take 8)) idle =
      .next (answered idle (.header .invalid (some ⟨.unknownEnumValue, 0, .protocolId, 0, 0x7F⟩))) :=
  ⟨idle_ok, rfl, by decide, rfl⟩

theorem witness_FirstReportCompletesOrOpens : idle.cfg.Ok ∧ idle.rx = .idle ∧
    (firstReport 0 52 7).length = 64 ∧ (firstReport 0 53 7).length = 64 ∧
    exec (.hdrDec ((firstReport 0 52 7).take 8)) idle = .next (answered idle (.header (.valid (headerOf 52)) none)) ∧
    exec (.hdrDec ((firstReport 0 53 7).take 8)) idle = .next (answered idle (.header (.valid (headerOf 53)) none)) ∧
    (headerOf 52).bodyLength.toNat ≤ 52 ∧ 52 < (headerOf 53).bodyLength.toNat :=
  ⟨idle_ok, rfl, by decide, by decide, decoded_52_53.1, decoded_52_53.2, by decide, by decide⟩

/-- A repeated first report, and a gap. -/
theorem witness_SequenceGapOrDuplicateFails : (collecting (transfer 120 52 2)).cfg.Ok ∧
    (collecting (transfer 120 52 2)).rx = .collecting (transfer 120 52 2) ∧ (zeros 64).length = 64 ∧
    1 ≤ 1 ∧ 1 ≤ idle.cfg.seqMax ∧ 1 ≠ (transfer 120 52 2).nextSeq ∧
    1 ≤ 5 ∧ 5 ≤ idle.cfg.seqMax ∧ 5 ≠ (transfer 120 52 2).nextSeq := ⟨collecting_ok _, by decide⟩

/-- 61 remaining octets complete a transfer of 113, 62 leave one of 114 open. -/
theorem witness_AwaitedReportCompletesOrGoesOn :
    (collecting (transfer 113 52 2)).cfg.Ok ∧
    (collecting (transfer 113 52 2)).rx = .collecting (transfer 113 52 2) ∧
    (collecting (transfer 114 52 2)).rx = .collecting (transfer 114 52 2) ∧
    (transfer 113 52 2).Inv Config.default ∧ (transfer 114 52 2).Inv Config.default ∧
    (zeros 64).length = 64 ∧ 2 ≤ idle.cfg.seqMax ∧
    61 = (transfer 113 52 2).bodyLength.toNat - (transfer 113 52 2).count ∧
    62 = (transfer 114 52 2).bodyLength.toNat - (transfer 114 52 2).count :=
  ⟨collecting_ok _, rfl, rfl, transfer_inv (by decide), transfer_inv (by decide), by decide⟩

theorem witness_AbortFailsOnlyATransfer : (collecting (transfer 120 52 2)).rx = .collecting (transfer 120 52 2) ∧
    idle.rx = .idle := ⟨rfl, rfl⟩

theorem witness_HeaderImageGivesItsHeader : idle.cfg.Ok ∧ (imageOf 0).protocolVersion = 0 ∧
    (imageOf 0).headerLength = 8 ∧ ((imageOf 0).protocolId, ProtocolId.knxTunnel) ∈ idle.cfg.pidTable ∧
    ((imageOf 0).emiId, EmiId.cemi) ∈ idle.cfg.emiTable := ⟨idle_ok, by decide⟩

theorem witness_FirstReportFormatCompletesOrOpens : idle.cfg.Ok ∧ idle.rx = .idle ∧
    (imageOf 52).protocolVersion = 0 ∧ (imageOf 52).headerLength = 8 ∧ (imageOf 53).protocolVersion = 0 ∧
    (imageOf 53).headerLength = 8 ∧ ((imageOf 52).protocolId, ProtocolId.knxTunnel) ∈ idle.cfg.pidTable ∧
    ((imageOf 52).emiId, EmiId.cemi) ∈ idle.cfg.emiTable ∧
    ((imageOf 53).protocolId, ProtocolId.knxTunnel) ∈ idle.cfg.pidTable ∧
    ((imageOf 53).emiId, EmiId.cemi) ∈ idle.cfg.emiTable ∧ (zeros 52).length = 52 ∧ (zeros 4).length = 4 ∧
    (imageOf 52).bodyLength.toNat ≤ 52 ∧ 52 < (imageOf 53).bodyLength.toNat := ⟨idle_ok, by decide⟩

theorem witness_ContinuationFormatCompletesOrGoesOn :
    (collecting (transfer 113 52 2)).cfg.Ok ∧
    (collecting (transfer 113 52 2)).rx = .collecting (transfer 113 52 2) ∧
    (collecting (transfer 114 52 2)).rx = .collecting (transfer 114 52 2) ∧
    (transfer 113 52 2).Inv Config.default ∧ (transfer 114 52 2).Inv Config.default ∧
    (zeros 61).length = 61 ∧ (zeros 3).length = 3 ∧ 2 ≤ idle.cfg.seqMax ∧
    61 = (transfer 113 52 2).bodyLength.toNat - (transfer 113 52 2).count ∧
    62 = (transfer 114 52 2).bodyLength.toNat - (transfer 114 52 2).count :=
  ⟨collecting_ok _, rfl, rfl, transfer_inv (by decide), transfer_inv (by decide), by decide⟩

/-- An `RX.ABORT` and an `RX.REPORT` that fail. -/
theorem witness_FailureDoesExactlyTheEntry :
    exec .rxAbort (collecting (transfer 120 52 2)) =
      .next (afterFailure (collecting (transfer 120 52 2)) ⟨.abortedByCaller, 0, .seq, 120, 52⟩) ∧
    exec (.rxReport 2 (zeros 64)) idle = .next (afterFailure idle ⟨.unexpectedContinuation, 2, .seq, 1, 2⟩) ∧
    (afterFailure idle ⟨.unexpectedContinuation, 2, .seq, 1, 2⟩).response =
      some (.rx (.fail ⟨.unexpectedContinuation, 2, .seq, 1, 2⟩)) ∧
    (afterFailure (collecting (transfer 120 52 2)) ⟨.abortedByCaller, 0, .seq, 120, 52⟩).response =
      some (.rx (.fail ⟨.abortedByCaller, 0, .seq, 120, 52⟩)) := ⟨rfl, rfl, rfl, rfl⟩

/-- One record of each half: H5a, X9, B5. -/
theorem witness_EachOperationFailsOnlyWithItsReasons :
    exec (.hdrDec []) idle = .next (answered idle (.header .invalid (some ⟨.malformedLength, 0, .seq, 8, 0⟩))) ∧
    failureOf (.header .invalid (some ⟨.malformedLength, 0, .seq, 8, 0⟩)) = some ⟨.malformedLength, 0, .seq, 8, 0⟩ ∧
    exec (.rxReport 0 (zeros 64)) idle = .next (afterFailure idle ⟨.unknownEnumValue, 0, .seq, 0, 0⟩) ∧
    failureOf (.rx (.fail ⟨.unknownEnumValue, 0, .seq, 0, 0⟩)) = some ⟨.unknownEnumValue, 0, .seq, 0, 0⟩ ∧
    exec (.bodyEnc (zeros 53) false) idle =
      .next (answered idle (.body .invalid (some ⟨.capacityExceeded, 0, .seq, 52, 53⟩))) ∧
    failureOf (.body .invalid (some ⟨.capacityExceeded, 0, .seq, 52, 53⟩)) = some ⟨.capacityExceeded, 0, .seq, 52, 53⟩ :=
  ⟨rfl, rfl, rfl, rfl, rfl, rfl⟩

theorem witness_OnlyFailuresAndResetWriteTheStatus :
    exec .rxAbort idle = .next (answered idle (.rx .noFrame)) ∧ Instr.rxAbort ≠ .reset ∧
    (∀ r, (answered idle (.rx .noFrame)).response ≠ some (.rx (.fail r))) :=
  ⟨rfl, by decide, by simp [answered]⟩

theorem witness_OnlyAFirstReportOpensATransfer :
    exec (.rxReport 1 (firstReport 0 53 7)) idle =
      .next (received idle (.collecting (transfer 53 52 2)) .noFrame) ∧ idle.rx = .idle ∧
    (received idle (.collecting (transfer 53 52 2)) .noFrame).rx = .collecting (transfer 53 52 2) := ⟨rfl, rfl, rfl⟩

/-- A pure operation that succeeds and one that reports a failure. -/
theorem witness_PureOperationsLeaveTheEngineAlone : isPure (.bodyLen .invalid) = true ∧
    exec (.bodyLen .invalid) idle = .next (answered idle (.length none)) ∧ isPure (.pidDec 0) = true ∧
    exec (.pidDec 0) idle = .next (answered idle (.protocolId (.unknownEnumValue 0))) := ⟨rfl, rfl, rfl, rfl⟩

/-- X3 from `COLLECTING`, X1 from `IDLE`. -/
theorem witness_DeliveredFrameHasItsHeadersLength :
    EngineInv (collecting (transfer 53 52 2)) ∧
    exec (.rxReport 2 (zeros 64)) (collecting (transfer 53 52 2)) = .next (received (collecting (transfer 53 52 2))
      .idle (.frame (List.replicate 52 7 ++ [0]) .knxTunnel .cemi 0)) ∧
    EngineInv idle ∧ exec (.rxReport 1 reportT1) idle = .next (received idle .idle (.frame f11 .knxTunnel .cemi 0)) :=
  ⟨collecting_inv (transfer_inv (by decide)), rfl, idle_inv, rfl⟩

/-- X20, and the step before it. -/
theorem witness_OversizedTransferNeverCompletes :
    EngineInv (collecting (transfer 297 296 6)) ∧
    (collecting (transfer 297 296 6)).rx = .collecting (transfer 297 296 6) ∧
    (collecting (transfer 297 296 6)).cfg.rxBufLen < (transfer 297 296 6).bodyLength.toNat ∧
    exec (.rxReport 5 (zeros 64)) (collecting (transfer 297 296 6)) =
      .next (afterFailure (collecting (transfer 297 296 6)) ⟨.sequenceGapOrDuplicate, 5, .seq, 6, 5⟩) ∧
    EngineInv (collecting (transfer 297 235 5)) ∧
    (answer (exec (.rxReport 5 (zeros 64)) (collecting (transfer 297 235 5)))) = some (.rx .noFrame) :=
  ⟨collecting_inv inv_297, rfl, by decide, rfl, collecting_inv (transfer_inv (by decide)), by decide⟩

theorem witness_RepeatedReportFailsTheTransfer :
    exec (.rxReport 1 (firstReport 0 53 7)) idle =
      .next (received idle (.collecting (transfer 53 52 2)) .noFrame) ∧
    (received idle (.collecting (transfer 53 52 2)) .noFrame).rx = .collecting (transfer 53 52 2) := ⟨rfl, rfl⟩

/-- A first report with pad octets FF, one with octets FF past its 52-octet body, a continuation report with octets FF
past the one octet that remains. -/
theorem witness_PadOctetsAreIgnored :
    EngineInv idle ∧ idle.rx = .idle ∧ (firstReport 0 3 7).length = 64 ∧
    ((firstReport 0 3 7).take 60 ++ List.replicate 4 0xFF).length = 64 ∧
    (firstReport 0 3 7).take 60 = ((firstReport 0 3 7).take 60 ++ List.replicate 4 0xFF).take 60 ∧
    exec (.hdrDec ((firstReport 0 3 7).take 8)) idle = .next (answered idle (.header (.valid (headerOf 3)) none)) ∧
    (headerOf 3).bodyLength.toNat ≤ 52 ∧
    (firstReport 0 3 7).take (8 + (headerOf 3).bodyLength.toNat) =
      ((firstReport 0 3 7).take 11 ++ List.replicate 53 0xFF).take (8 + (headerOf 3).bodyLength.toNat) ∧
    EngineInv (collecting (transfer 53 52 2)) ∧
    (zeros 64).take 61 = (zeros 61 ++ List.replicate 3 0xFF).take 61 ∧ (zeros 61 ++ List.replicate 3 0xFF).length = 64 ∧
    2 = (transfer 53 52 2).nextSeq ∧
    (zeros 64).take ((transfer 53 52 2).bodyLength.toNat - (transfer 53 52 2).count) =
      (0x00 :: List.replicate 63 0xFF).take ((transfer 53 52 2).bodyLength.toNat - (transfer 53 52 2).count) :=
  ⟨idle_inv, rfl, by decide, by decide, by decide, rfl, by decide, by decide,
    collecting_inv (transfer_inv (by decide)), by decide, by decide, by decide, by decide⟩

theorem witness_TransmitAndReceiveHalvesAreIndependent :
    exec (.txFrag .knxTunnel .cemi f11) idle = .next (answered idle (.reports [(1, reportT1)])) ∧
    exec (.rxReport 1 (firstReport 0 53 7)) idle =
      .next (received idle (.collecting (transfer 53 52 2)) .noFrame) := ⟨rfl, rfl⟩

theorem witness_StatusInfluencesNoOperation :
    idle.cfg = { idle with rxFailCount := 9 }.cfg ∧ idle.rx = { idle with rxFailCount := 9 }.rx ∧
    exec (.rxReport 1 (firstReport 0 53 7)) idle =
      .next (received idle (.collecting (transfer 53 52 2)) .noFrame) := ⟨rfl, rfl, rfl⟩

/-- Two engines, one reset, one aborted. -/
theorem witness_StepsOfDifferentEnginesCommute : 0 ≠ 1 ∧
    stepAt 0 [{ idle with requests := [.resetPin 1] }, { idle with requests := [.op 0x3 OperandBus.idle] }] =
      .next [idle, { idle with requests := [.op 0x3 OperandBus.idle] }] ∧
    stepAt 1 [{ idle with requests := [.resetPin 1] }, { idle with requests := [.op 0x3 OperandBus.idle] }] =
      .next [{ idle with requests := [.resetPin 1] }, answered idle (.rx .noFrame)] := ⟨by decide, rfl, rfl⟩

/-- From `IDLE`, and from a transfer that has used every sequence number. -/
theorem witness_EveryStepKeepsTheInvariant :
    EngineInv { idle with requests := [.report 1 (firstReport 0 53 7)] } ∧
    step { idle with requests := [.report 1 (firstReport 0 53 7)] } =
      .next (received idle (.collecting (transfer 53 52 2)) .noFrame) ∧
    EngineInv { collecting (transfer 297 296 6) with requests := [.op 0x3 OperandBus.idle] } ∧
    step { collecting (transfer 297 296 6) with requests := [.op 0x3 OperandBus.idle] } =
      .next (afterFailure (collecting (transfer 297 296 6)) ⟨.abortedByCaller, 0, .seq, 297, 296⟩) :=
  ⟨⟨nofun, by constructor <;> decide, by decide⟩, rfl,
    ⟨by intro t h; cases h; exact inv_297, by constructor <;> decide, by decide⟩, rfl⟩

/-- The longest frame both halves take at the defaults, and the empty one. -/
theorem witness_LoopbackDeliversTheFrame : idle.cfg.Ok ∧ idle.rx = .idle ∧
    Config.isMember idle.cfg.pidTable .knxTunnel ∧ Config.isMember idle.cfg.emiTable .cemi ∧
    (zeros 263).length ≤ idle.cfg.maxFrameLen ∧ (zeros 263).length ≤ idle.cfg.rxBufLen ∧
    (zeros 0).length ≤ idle.cfg.maxFrameLen ∧ (zeros 0).length ≤ idle.cfg.rxBufLen :=
  ⟨idle_ok, rfl, by decide, by decide, by rw [length_zeros]; decide, by rw [length_zeros]; decide,
    by rw [length_zeros]; decide, by rw [length_zeros]; decide⟩

end Sys2Proof.Tests
end

section
/-! PROOFS. The reset input and `RESET` (spec/10_state.md R34, spec/70_reset_and_hazards.md R260). -/

namespace Sys2Proof.Machine

open Sys2Proof

/-- The reset input asks for `RESET` exactly when it is asserted (R81, R85). -/
theorem decode_resetPin_eq_ok_iff {level : BitVec 1} {i : Instr} :
    decode (.resetPin level) = .ok i ↔ level = 1 ∧ i = .reset := by
  by_cases asserted : level = 1
  · simp [decode, asserted, eq_comm]
  · simp only [decode, asserted, if_false, reduceCtorEq, false_and]

/-- `RESET` makes the engine a fresh one: the parameters (R261) and the caller's later requests are all that stays. -/
@[simp] theorem exec_reset (s : State) :
    exec .reset s = .next { State.fresh s.cfg with requests := s.requests } := rfl

/-- Settles O40: the asserted input decodes to `RESET`, and a fresh engine has the values R34 tabulates. -/
theorem resetGivesTheResetState : Obligations.ResetGivesTheResetState := by
  unfold Obligations.ResetGivesTheResetState
  constructor
  case left => exact decode_resetPin_eq_ok_iff.2 ⟨rfl, rfl⟩
  case right => exact fun s => exec_reset s

end Sys2Proof.Machine
end

section
/-! PROOFS. The select codes of the request port and the reserved one (spec/30_encoding.md R81, R82). -/

namespace Sys2Proof.Machine

open Sys2Proof Sys2Proof.Statements

/-! ## What the request port asks for -/

/-- The request port always asks for an operation: every select code is decoded (R81). -/
@[simp] theorem decode_op (select : BitVec 4) (bus : OperandBus) :
    decode (.op select bus) = .ok (decodeSelect select bus) := rfl

/-- A select code asks for an operation by name exactly when it is read as that operation on every bus. -/
theorem selects_iff {op : BitVec 4} {name : String} :
    selects op name ↔ ∀ bus, mnemonic (decodeSelect op bus) = name := by
  simp [selects]

/-- `RESET` is "not a select code" (R81). -/
theorem decodeSelect_ne_reset (select : BitVec 4) (bus : OperandBus) : decodeSelect select bus ≠ .reset := by
  unfold decodeSelect
  split <;> exact nofun

/-- Select code 0 asks for the reserved operation (R82). -/
theorem decode_op_zero (bus : OperandBus) : decode (.op 0x0 bus) = .ok .reserved0 := rfl

/-- Settles O1: the sixteen codes are read off the decoder's table, and no row of it is `RESET`. -/
theorem selectCodesNameTheirOperations : Obligations.SelectCodesNameTheirOperations := by
  unfold Obligations.SelectCodesNameTheirOperations
  have never_reset (op : BitVec 4) (bus : OperandBus) : decode (.op op bus) ≠ .ok .reset := by
    simpa using decodeSelect_ne_reset op bus
  simp only [selects_iff]
  exact ⟨fun _ => rfl, fun _ => rfl, fun _ => rfl, fun _ => rfl,
    fun _ => rfl, fun _ => rfl, fun _ => rfl, fun _ => rfl,
    fun _ => rfl, fun _ => rfl, fun _ => rfl, fun _ => rfl,
    fun _ => rfl, fun _ => rfl, fun _ => rfl, fun _ => rfl,
    decode_resetPin_eq_ok_iff.2 ⟨rfl, rfl⟩, never_reset⟩

/-! ## Performing the oldest request -/

/-- The step that finds a request which asks for an operation is that operation, with the request taken off the
stream (R55, R59). -/
theorem step_eq_exec {s : State} {r : Request} {rest : List Request} {i : Instr} (oldest : s.requests = r :: rest)
    (asks : decode r = .ok i) : step s = exec i { s with requests := rest } := by
  simp only [step, oldest, asks]

/-- The reserved operation is refused in every state (R82). -/
@[simp] theorem exec_reserved0 (s : State) : exec .reserved0 s = .refused .reservedSelect := rfl

/-- Settles O3: select code 0 is read as the reserved operation on every bus, so the step that finds it is refused. -/
theorem reservedSelectIsRefused : Obligations.ReservedSelectIsRefused := by
  unfold Obligations.ReservedSelectIsRefused
  intro s bus rest
  constructor
  case left => exact exec_reserved0 s
  case right =>
    intro oldest
    calc step s = exec .reserved0 { s with requests := rest } := step_eq_exec oldest (decode_op_zero bus)
      _ = .refused .reservedSelect := exec_reserved0 _

end Sys2Proof.Machine
end

section
/-! PROOFS. The catalog operations `PID.DEC`, `EMI.DEC` and `MC.DEC` (spec/40_catalogs.md R100 to R103). -/

namespace Sys2Proof.Machine

open Sys2Proof Sys2Proof.Statements

/-- A code is none of the catalog's exactly when it stands beside no member. -/
theorem not_mem_codes_iff {α : Type} {t : List (Octet × α)} {code : Octet} :
    code ∉ t.map Prod.fst ↔ ∀ m, (code, m) ∉ t := by
  simp

/-! ## What each operation answers -/

/-- `PID.DEC` answers what `PID_TABLE` says of the code (R101). -/
@[simp] theorem exec_pidDec (code : Octet) (s : State) :
    exec (.pidDec code) s = .next (answered s (.protocolId (catalogDecode s.cfg.pidTable code))) := rfl

/-- `EMI.DEC` answers what `EMI_TABLE` says of the code (R102). -/
@[simp] theorem exec_emiDec (code : Octet) (s : State) :
    exec (.emiDec code) s = .next (answered s (.emiId (catalogDecode s.cfg.emiTable code))) := rfl

/-- `MC.DEC` answers what `MC_TABLE` says of the code (R103). -/
@[simp] theorem exec_mcDec (code : Octet) (s : State) :
    exec (.mcDec code) s = .next (answered s (.messageCode (catalogDecode s.cfg.mcTable code))) := rfl

/-- Settles O10: each operation answers the lookup in its own table, which finds the member a code stands beside, since
no code stands there twice (R100), and reports every other code raw. -/
theorem catalogOperationsLookUpTheirTables : Obligations.CatalogOperationsLookUpTheirTables := by
  unfold Obligations.CatalogOperationsLookUpTheirTables
  refine ⟨selects_iff.2 fun _ => rfl, selects_iff.2 fun _ => rfl, selects_iff.2 fun _ => rfl, fun s code ok => ?_⟩
  obtain ⟨pid_codes, -⟩ := ok.pidTable_catalog
  obtain ⟨emi_codes, -⟩ := ok.emiTable_catalog
  obtain ⟨mc_codes, -⟩ := ok.mcTable_catalog
  refine ⟨fun m found => ?pid_found, fun absent => ?pid_absent, fun m found => ?emi_found, fun absent => ?emi_absent,
    fun m found => ?mc_found, fun absent => ?mc_absent⟩
  case pid_found => rw [exec_pidDec, catalogDecode_of_mem pid_codes found]
  case pid_absent => rw [exec_pidDec, catalogDecode_of_not_mem (not_mem_codes_iff.2 absent)]
  case emi_found => rw [exec_emiDec, catalogDecode_of_mem emi_codes found]
  case emi_absent => rw [exec_emiDec, catalogDecode_of_not_mem (not_mem_codes_iff.2 absent)]
  case mc_found => rw [exec_mcDec, catalogDecode_of_mem mc_codes found]
  case mc_absent => rw [exec_mcDec, catalogDecode_of_not_mem (not_mem_codes_iff.2 absent)]

end Sys2Proof.Machine
end

section
/-! PROOFS. The header codec operations `HDR.ENC`, `HDR.DEC` and `HDR.TOB` (spec/41_header_codec.md R121 to R125). -/

namespace Sys2Proof.Machine

open Sys2Proof Sys2Proof.Statements

/-! ## What each operation answers -/

/-- `HDR.ENC` of names of the tables answers its header (R121). -/
theorem exec_hdrEnc_of_members {s : State} {pid : ProtocolId} {emi : EmiId} (bodyLength : U16)
    (pid_member : Config.isMember s.cfg.pidTable pid) (emi_member : Config.isMember s.cfg.emiTable emi) :
    exec (.hdrEnc bodyLength pid emi) s = .next (answered s (.header (hdrEnc bodyLength pid emi) none)) :=
  if_pos ((membersOk_iff s.cfg pid emi).2 ⟨pid_member, emi_member⟩)

/-- `HDR.ENC` of any other name is refused (R121). -/
theorem exec_hdrEnc_of_not_members {s : State} {pid : ProtocolId} {emi : EmiId} (bodyLength : U16)
    (outside : ¬(Config.isMember s.cfg.pidTable pid ∧ Config.isMember s.cfg.emiTable emi)) :
    exec (.hdrEnc bodyLength pid emi) s = .refused .notAMember :=
  if_neg fun members => outside ((membersOk_iff s.cfg pid emi).1 members)

/-- `HDR.DEC` answers what the codec makes of the octets (R122). -/
@[simp] theorem exec_hdrDec (bytes : List Octet) (s : State) :
    exec (.hdrDec bytes) s = .next (answered s (headerResponse (hdrDec s.cfg bytes))) := rfl

/-- `HDR.TOB` answers the octets of a header that has them (R123). -/
theorem exec_hdrTob_of_some {s : State} {hdr : Header} {b : List Octet} (octets : hdrTob s.cfg hdr = some b) :
    exec (.hdrTob hdr) s = .next (answered s (.octets b)) := by
  simp only [exec, execHdrTob, octets]
  rfl

/-! ## The codec's functions -/

/-- Octets of any number but 8 are malformed: the first test of R122. -/
theorem hdrDec_of_length_ne {bytes : List Octet} (c : Config) (other_length : bytes.length ≠ 8) :
    hdrDec c bytes = .error (malformedLength 0 8 bytes.length) := if_pos other_length

/-- An assembled field has the value R75 gives it: two octets always fit. -/
theorem toNat_be16 (b : List Octet) (i : Nat) :
    (be16 b i).toNat = (octetAt b i).toNat * 256 + (octetAt b (i + 1)).toNat := by
  have high := (octetAt b i).isLt
  have low := (octetAt b (i + 1)).isLt
  rw [be16, BitVec.toNat_ofNat]
  omega

/-- The answer to a decode shows a valid header exactly when the decode succeeded with it. -/
theorem headerResponse_eq_valid_iff {r : Except FailRecord HeaderFields} {f : HeaderFields} :
    headerResponse r = .header (.valid f) none ↔ r = .ok f := by
  cases r <;> simp [headerResponse]

/-- `HDR.DEC` answers a valid header exactly when the decode succeeds with it. -/
theorem exec_hdrDec_eq_valid_iff {s : State} {b : List Octet} {f : HeaderFields} :
    exec (.hdrDec b) s = .next (answered s (.header (.valid f) none)) ↔ hdrDec s.cfg b = .ok f := by
  simp [answered, headerResponse_eq_valid_iff]

/-- Octets decode to a valid header exactly under the four conditions of R125. -/
theorem exists_hdrDec_eq_ok_iff {c : Config} (ok : c.Ok) {b : List Octet} :
    (∃ f, hdrDec c b = .ok f) ↔
      b.length = 8 ∧ (∃ pid, (octetAt b 4, pid) ∈ c.pidTable) ∧ (∃ emi, (octetAt b 5, emi) ∈ c.emiTable) ∧
        octetAt b 0 = 0 ∧ octetAt b 1 = 8 := by
  constructor
  case mp =>
    rintro ⟨f, decoded⟩
    obtain ⟨eight, checked⟩ := hdrDec_ok decoded
    obtain ⟨-, -, version, length, pid_found, emi_found, -⟩ := hdrCheck_ok checked
    exact ⟨eight, ⟨_, pid_found⟩, ⟨_, emi_found⟩, version, length⟩
  case mpr =>
    rintro ⟨eight, ⟨pid, pid_found⟩, ⟨emi, emi_found⟩, version, length⟩
    exact ⟨_, (hdrDec_eight eight).trans (hdrCheck_of_mem (h := .ofOctets b) ok.pidTable_catalog.1
      ok.emiTable_catalog.1 version length pid_found emi_found)⟩

/-- The octets that `HDR.TOB` makes of an encoded header decode to the header's fields (R124): a member's code stands
beside it in its table, where it is found again (R105). -/
theorem hdrDec_hdrTob_hdrEnc {c : Config} (ok : c.Ok) (bodyLength : U16) {pid : ProtocolId} {emi : EmiId}
    (pid_member : Config.isMember c.pidTable pid) (emi_member : Config.isMember c.emiTable emi) :
    ∃ b, hdrTob c (hdrEnc bodyLength pid emi) = some b ∧ hdrDec c b = .ok
      { protocolVersion := 0, headerLength := 8, bodyLength := bodyLength, protocolId := pid, emiId := emi,
        manufacturerCode := 0 } := by
  obtain ⟨p, pid_code⟩ := catalogCode_of_isMember pid_member
  obtain ⟨e, emi_code⟩ := catalogCode_of_isMember emi_member
  refine ⟨_, hdrTob_valid pid_code emi_code, (hdrDec_octets c _).trans ?_⟩
  exact hdrCheck_of_mem ok.pidTable_catalog.1 ok.emiTable_catalog.1 rfl rfl (mem_of_catalogCode pid_code)
    (mem_of_catalogCode emi_code)

/-! ## The statements -/

/-- Settles O16: the three answers of the round trip, in turn. -/
theorem headerRoundTrip : Obligations.HeaderRoundTrip := by
  unfold Obligations.HeaderRoundTrip
  intro s bodyLength pid emi ok pid_member emi_member
  obtain ⟨b, serialized, decoded⟩ := hdrDec_hdrTob_hdrEnc ok bodyLength pid_member emi_member
  exact ⟨hdrEnc bodyLength pid emi, b, exec_hdrEnc_of_members bodyLength pid_member emi_member,
    exec_hdrTob_of_some serialized, exec_hdrDec_eq_valid_iff.2 decoded⟩

/-- Settles O18: a valid answer is a successful decode, and an encoded header has its fields by construction. -/
theorem decodedHeaderValidIff : Obligations.DecodedHeaderValidIff := by
  unfold Obligations.DecodedHeaderValidIff
  intro s b ok
  constructor
  case left => exact (exists_congr fun _ => exec_hdrDec_eq_valid_iff).trans (exists_hdrDec_eq_ok_iff ok)
  case right =>
    intro bodyLength pid emi pid_member emi_member
    exact ⟨_, exec_hdrEnc_of_members bodyLength pid_member emi_member, rfl, rfl, pid_member, emi_member⟩

/-- Settles O13: the membership test of the two names decides between the header and the refusal. -/
theorem hdrEncBuildsAValidHeader : Obligations.HdrEncBuildsAValidHeader := by
  unfold Obligations.HdrEncBuildsAValidHeader
  exact ⟨selects_iff.2 fun _ => rfl, fun s bodyLength pid emi =>
    ⟨exec_hdrEnc_of_members bodyLength, exec_hdrEnc_of_not_members bodyLength⟩⟩

/-- Settles O14: octets of any number but 8 fail the first test; for 8 octets, one case for each further test that can
be the first to fail, and one where all pass. -/
theorem hdrDecTestsInOrder : Obligations.HdrDecTestsInOrder := by
  unfold Obligations.HdrDecTestsInOrder
  refine ⟨selects_iff.2 fun _ => rfl, fun s ok => ⟨fun bytes other_length => ?length,
    fun b0 b1 b2 b3 b4 b5 b6 b7 => ?eight⟩⟩
  case length =>
    rw [exec_hdrDec, hdrDec_of_length_ne s.cfg other_length]
    rfl
  case eight =>
    obtain ⟨pid_codes, -⟩ := ok.pidTable_catalog
    obtain ⟨emi_codes, -⟩ := ok.emiTable_catalog
    rw [exec_hdrDec, hdrDec_eight rfl]
    refine ⟨fun pid_absent => ?protocol_id, fun pid pid_found => ⟨fun emi_absent => ?emi_id, fun emi emi_found =>
      ⟨fun other_version => ?version, fun version other_length => ?header_length, fun version length => ?valid⟩⟩⟩
    case protocol_id =>
      rw [hdrCheck_unknown_pid (not_mem_codes_iff.2 pid_absent)]
      rfl
    case emi_id =>
      rw [hdrCheck_unknown_emi pid_codes pid_found (not_mem_codes_iff.2 emi_absent)]
      rfl
    case version =>
      rw [hdrCheck_version pid_codes emi_codes pid_found emi_found other_version]
      rfl
    case header_length =>
      rw [hdrCheck_length pid_codes emi_codes pid_found emi_found version other_length]
      rfl
    case valid =>
      refine ⟨_, _, toNat_be16 [b0, b1, b2, b3, b4, b5, b6, b7] 2, toNat_be16 [b0, b1, b2, b3, b4, b5, b6, b7] 6, ?_⟩
      rw [hdrCheck_of_mem pid_codes emi_codes version length pid_found emi_found]
      rfl

end Sys2Proof.Machine
end

section
/-! PROOFS. The body codec operations `BODY.ENC`, `BODY.DEC` and `BODY.TOB` (spec/42_body_codec.md R141 to R143 and
R146). -/

namespace Sys2Proof.Machine

open Sys2Proof Sys2Proof.Statements

/-! ## What each operation answers -/

/-- `BODY.ENC` answers what the codec makes of the payload (R141). -/
@[simp] theorem exec_bodyEnc (payload : List Octet) (isPartial : Bool) (s : State) :
    exec (.bodyEnc payload isPartial) s = .next (answered s (bodyResponse (bodyEnc payload isPartial))) := rfl

/-- `BODY.DEC` answers what the codec makes of the octets (R142). -/
@[simp] theorem exec_bodyDec (bytes : List Octet) (s : State) :
    exec (.bodyDec bytes) s = .next (answered s (bodyResponse (bodyDec bytes))) := rfl

/-- `BODY.TOB` answers the octets of the body (R143). -/
@[simp] theorem exec_bodyTob (body : Body) (isPartial : Bool) (s : State) :
    exec (.bodyTob body isPartial) s = .next (answered s (.octets (bodyTob body isPartial))) := rfl

/-! ## The codec's functions -/

/-- A payload within the capacity of its kind is a body as given (R141). -/
theorem bodyEnc_of_length_le {payload : List Octet} {k : Bool} (fits : payload.length ≤ capacity k) :
    bodyEnc payload k = .ok ⟨payload, k⟩ := if_pos fits

/-- A payload over the capacity of its kind is none (R141). -/
theorem bodyEnc_of_capacity_lt {payload : List Octet} {k : Bool} (exceeds : capacity k < payload.length) :
    bodyEnc payload k = .error (capacityExceeded (capacity k) payload.length) := if_neg exceeds.not_ge

/-- Octets of the full width of a kind are a body of that kind (R142). -/
theorem bodyDec_of_length_eq_capacity {bytes : List Octet} {k : Bool} (full : bytes.length = capacity k) :
    bodyDec bytes = .ok ⟨bytes, k⟩ := by
  cases k with
  | false => exact bodyDec_first full
  | true => exact bodyDec_continuation full

/-- Octets of neither width are malformed, with 52 as the length expected (R142). -/
theorem bodyDec_of_length_ne {bytes : List Octet} (not_first : bytes.length ≠ 52)
    (not_continuation : bytes.length ≠ 61) : bodyDec bytes = .error (malformedLength 0 52 bytes.length) :=
  (if_neg not_first).trans (if_neg not_continuation)

/-- A payload within the capacity of its kind, with the zeros that `BODY.TOB` puts after it, has the full width. -/
theorem length_append_zeros_capacity {payload : List Octet} {k : Bool} (fits : payload.length ≤ capacity k) :
    (payload ++ zeros (capacity k - payload.length)).length = capacity k := by
  rw [List.length_append, length_zeros, Nat.add_sub_cancel' fits]

/-! ## The statements -/

/-- Settles O25: the image is the payload with zeros up to the width of its kind, and that width is the length by which
`BODY.DEC` tells the kind. -/
theorem bodyRoundTrip : Obligations.BodyRoundTrip := by
  unfold Obligations.BodyRoundTrip
  intro s p k cap cap_eq fits
  obtain rfl : cap = capacity k := cap_eq
  have encoded : bodyEnc p k = .ok ⟨p, k⟩ := bodyEnc_of_length_le fits
  have serialized : bodyTob (.valid ⟨p, k⟩) k = p ++ zeros (capacity k - p.length) := by
    simpa only [encoded, toBody] using bodyTob_bodyEnc fits
  have full := length_append_zeros_capacity fits
  refine ⟨.valid ⟨p, k⟩, p ++ zeros (capacity k - p.length), _, ?enc, ?tob, ?dec, full, ?payload, ?padding⟩
  case enc =>
    rw [exec_bodyEnc, encoded]
    rfl
  case tob => rw [exec_bodyTob, serialized]
  case dec =>
    rw [exec_bodyDec, bodyDec_of_length_eq_capacity full]
    rfl
  case payload => exact List.take_left
  case padding =>
    rw [List.drop_left]
    exact fun o padded => List.eq_of_mem_replicate padded

/-- Settles O20: the comparison with the capacity decides between the body and the failure. -/
theorem bodyEncKeepsToCapacity : Obligations.BodyEncKeepsToCapacity := by
  unfold Obligations.BodyEncKeepsToCapacity
  refine ⟨selects_iff.2 fun _ => rfl, fun s payload isPartial cap cap_eq => ?_⟩
  obtain rfl : cap = capacity isPartial := cap_eq
  refine ⟨fun fits => ?within, fun exceeds => ?exceeds⟩
  case within =>
    rw [exec_bodyEnc, bodyEnc_of_length_le fits]
    rfl
  case exceeds =>
    rw [exec_bodyEnc, bodyEnc_of_capacity_lt exceeds]
    rfl

/-- Settles O21: the two widths are the two kinds' capacities, and octets of any other number are malformed. -/
theorem bodyDecTellsTheKindByLength : Obligations.BodyDecTellsTheKindByLength := by
  unfold Obligations.BodyDecTellsTheKindByLength
  refine ⟨selects_iff.2 fun _ => rfl, fun s bytes => ⟨fun first => ?first, fun continuation => ?continuation,
    fun not_first not_continuation => ?malformed⟩⟩
  case first =>
    rw [exec_bodyDec, bodyDec_first first]
    rfl
  case continuation =>
    rw [exec_bodyDec, bodyDec_continuation continuation]
    rfl
  case malformed =>
    rw [exec_bodyDec, bodyDec_of_length_ne not_first not_continuation]
    rfl

end Sys2Proof.Machine
end

section
/-! PROOFS. The Frame Fragmenter operation `TX.FRAG` (spec/43_fragmenter.md R160 to R162 and R168). -/

namespace Sys2Proof.Machine

open Sys2Proof Sys2Proof.Statements

/-- `TX.FRAG` of names of the tables answers what the fragmenter makes of the frame (R161). -/
theorem exec_txFrag_of_members {s : State} {pid : ProtocolId} {emi : EmiId} {frame : List Octet} {r : Response}
    (pid_member : Config.isMember s.cfg.pidTable pid) (emi_member : Config.isMember s.cfg.emiTable emi)
    (fragmented : txFrag s.cfg pid emi frame = some r) :
    exec (.txFrag pid emi frame) s = .next (answered s r) := by
  have accepted : membersOk s.cfg pid emi = true := (membersOk_iff s.cfg pid emi).2 ⟨pid_member, emi_member⟩
  simp only [exec, execTxFrag, accepted, if_true, fragmented]
  rfl

/-- The fragmenter tests the frame's length before it builds a report (R162). -/
theorem txFrag_of_maxFrameLen_lt {c : Config} (pid : ProtocolId) (emi : EmiId) {frame : List Octet}
    (too_large : c.maxFrameLen < frame.length) :
    txFrag c pid emi frame = some (.txFail (frameTooLarge c.maxFrameLen frame.length)) := if_pos too_large

/-- Settles O27: a frame over the limit makes the fragmenter fail whole, and `TX.FRAG` writes nothing but the response. -/
theorem txFragRejectsAnOversizedFrameWhole : Obligations.TxFragRejectsAnOversizedFrameWhole := by
  unfold Obligations.TxFragRejectsAnOversizedFrameWhole
  intro s pid emi frame pid_member emi_member too_large
  exact exec_txFrag_of_members pid_member emi_member (txFrag_of_maxFrameLen_lt pid emi too_large)

end Sys2Proof.Machine
end

section
/-! PROOFS. The Frame Reassembler operations `RX.REPORT` and `RX.ABORT` (spec/44_reassembler.md R183 to R200). -/

namespace Sys2Proof.Machine

open Sys2Proof Sys2Proof.Statements

/-! ## How a receive operation ends -/

/-- The failure entry has exactly the effects that R228 lists. -/
theorem failEntry_eq_afterFailure (r : FailRecord) (s : State) : failEntry r s = afterFailure s r := by
  rw [failEntry, satInc_eq_min]
  rfl

/-- A receive operation that does not fail writes the receive context and the response alone (R181). -/
theorem rxReturn_eq_received (x : RxContext) (o : RxOutcome) (s : State) : rxReturn x o s = received s x o := rfl

/-- `RX.REPORT` of a `seq` that the side-band carries performs the reassembler's tests and always answers (R195). -/
theorem exec_rxReport_of_fits {s : State} {seq : Nat} {report : List Octet} (fits : seq < 2 ^ s.cfg.seqW) :
    exec (.rxReport seq report) s = .next (rxReport seq report s) := takeReport_of_fits fits

/-- A report that passes the first two tests of R183 has a `seq` that the side-band carries, so it is taken. -/
theorem exec_rxReport_of_admitted {s : State} {seq : Nat} {report : List Octet} (ok : s.cfg.Ok)
    (admitted : Admitted s.cfg seq report) : exec (.rxReport seq report) s = .next (rxReport seq report s) :=
  exec_rxReport_of_fits (seq_fits ok admitted.2.2)

/-- `seq` 1 is in the domain of every engine, so a report of 64 octets with it passes the first two tests of R183. -/
theorem admitted_first {c : Config} {report : List Octet} (ok : c.Ok) (full : report.length = 64) :
    Admitted c 1 report := ⟨full, Nat.le_refl 1, ok.seqMax_pos⟩

/-! ## The octets a report brings -/

/-- `MemRead` takes `n` of the octets from `off` on (R11). -/
theorem memRead_eq (b : List Octet) (off n : Nat) : memRead b off n = (b.drop off).take n := slice_add b off n

/-- `MemRead` from offset 0 takes the first `n` octets (R11). -/
theorem memRead_zero (b : List Octet) (n : Nat) : memRead b 0 n = b.take n := by
  rw [memRead_eq, List.drop_zero]

/-- The transfer a first report opens holds the report's whole body image (R187). -/
theorem openTransfer_eq (h : HeaderFields) (payload : List Octet) :
    openTransfer h payload =
      { bodyLength := h.bodyLength, count := 52, nextSeq := 2, buf := payload, pid := h.protocolId, emi := h.emiId,
        mfr := h.manufacturerCode } := by
  have written : memWrite [] 0 payload = payload := memWrite_end [] payload
  rw [openTransfer, written]

/-- A continuation report's share goes at the end of `rx_buf`, and `rx_count` grows by its length (R189). -/
theorem appendSegment_eq {t : Transfer} (buf_length : t.buf.length = t.count) (payload : List Octet) :
    appendSegment t payload =
      { t with buf := t.buf ++ payload.take (takeCount t), count := t.count + takeCount t } := by
  rw [← buf_appendSegment buf_length payload]
  rfl

/-! ## A report in `IDLE` -/

/-- In `IDLE` every report but a first one is unexpected, whatever its octets (R188). -/
theorem rxIdle_of_ne_one {seq : Nat} (not_first : seq ≠ 1) (report : List Octet) (s : State) :
    rxIdle seq report s = failEntry (unexpectedContinuation seq) s := if_pos not_first

/-- A first report fails with the diagnostic of its header, completed with `seq` 1 (R186, R228). -/
theorem rxIdle_first_of_error {report : List Octet} {s : State} {d : FailRecord} (full : report.length = 64)
    (decoded : hdrDec s.cfg (report.take 8) = .error d) : rxIdle 1 report s = failEntry { d with seq := 1 } s := by
  rw [rxIdle_first full, memRead_zero, decoded]

/-- A first report that brings the whole frame completes it at once (R187, R200). -/
theorem rxIdle_first_of_le {report : List Octet} {s : State} {h : HeaderFields} (full : report.length = 64)
    (decoded : hdrDec s.cfg (report.take 8) = .ok h) (whole : h.bodyLength.toNat ≤ 52) :
    rxIdle 1 report s = rxReturn .idle (.frame ((report.drop 8).take h.bodyLength.toNat) h.protocolId h.emiId
      h.manufacturerCode) s := by
  rw [rxIdle_first full, memRead_zero, decoded]
  simp only [if_pos whole, memRead_eq, List.take_take, Nat.min_eq_left whole]

/-- A first report of a longer frame opens a transfer with its 52 octets (R187). -/
theorem rxIdle_first_of_gt {report : List Octet} {s : State} {h : HeaderFields} (full : report.length = 64)
    (decoded : hdrDec s.cfg (report.take 8) = .ok h) (longer : 52 < h.bodyLength.toNat) :
    rxIdle 1 report s = rxReturn (.collecting (openTransfer h ((report.drop 8).take 52))) .noFrame s := by
  rw [rxIdle_first full, memRead_zero, decoded]
  simp only [if_neg longer.not_ge, memRead_eq]

/-- `HDR.DEC` answers an invalid header with a diagnostic exactly when the decode fails with it. -/
theorem exec_hdrDec_eq_invalid_iff {s : State} {b : List Octet} {d : FailRecord} :
    exec (.hdrDec b) s = .next (answered s (.header .invalid (some d))) ↔ hdrDec s.cfg b = .error d := by
  cases decoded : hdrDec s.cfg b <;> simp [answered, headerResponse, decoded]

/-! ## A report in `COLLECTING` -/

/-- In `COLLECTING` every report but the awaited one is a gap or a repeat (R191, R192). -/
theorem rxCollecting_of_ne {t : Transfer} {seq : Nat} (not_awaited : seq ≠ t.nextSeq) (report : List Octet)
    (s : State) : rxCollecting t seq report s = failEntry (sequenceGapOrDuplicate t.nextSeq seq) s :=
  if_pos not_awaited

/-- The awaited report that brings all the octets still missing completes the frame (R189). -/
theorem rxCollecting_next_of_le {t : Transfer} {report : List Octet} {s : State} (inv : t.Inv s.cfg)
    (full : report.length = 64) (last : t.bodyLength.toNat - t.count ≤ 61) :
    rxCollecting t t.nextSeq report s = rxReturn .idle
      (.frame (t.buf ++ report.take (t.bodyLength.toNat - t.count)) t.pid t.emi t.mfr) s := by
  have missing := inv.count_lt
  have buf_length := inv.buf_length
  have share : takeCount t = t.bodyLength.toNat - t.count := Nat.min_eq_right last
  have complete : t.count + takeCount t = t.bodyLength.toNat := by omega
  have frame_length : (t.buf ++ report.take (t.bodyLength.toNat - t.count)).length ≤ t.bodyLength.toNat := by
    simp only [List.length_append, List.length_take]
    omega
  rw [rxCollecting_next full, if_pos complete, buf_appendSegment buf_length, share, memRead_zero,
    List.take_take, Nat.min_eq_left last, List.take_of_length_le frame_length]

/-- The awaited report that leaves octets missing brings 61 of them, and the transfer goes on (R189). -/
theorem rxCollecting_next_of_gt {t : Transfer} {report : List Octet} {s : State} (inv : t.Inv s.cfg)
    (full : report.length = 64) (more : 61 < t.bodyLength.toNat - t.count) :
    rxCollecting t t.nextSeq report s = rxReturn
      (.collecting { t with
        buf := t.buf ++ report.take 61, count := t.count + 61, nextSeq := t.nextSeq + 1 }) .noFrame s := by
  have share : takeCount t = 61 := Nat.min_eq_left more.le
  have incomplete : t.count + takeCount t ≠ t.bodyLength.toNat := by omega
  rw [rxCollecting_next full, if_neg incomplete, appendSegment_eq inv.buf_length, share, memRead_zero,
    List.take_take, Nat.min_self]

/-! ## `RX.ABORT` -/

/-- `RX.ABORT` fails a transfer in flight (R196). -/
theorem exec_rxAbort_collecting {s : State} {t : Transfer} (collecting : s.rx = .collecting t) :
    exec .rxAbort s = .next (failEntry (abortedByCaller t.bodyLength.toNat t.count) s) := by
  simp only [exec, execRxAbort, collecting]

/-- `RX.ABORT` in `IDLE` answers `NoFrame` and writes nothing else (R196). -/
theorem exec_rxAbort_idle {s : State} (idle : s.rx = .idle) :
    exec .rxAbort s = .next (answered s (.rx .noFrame)) := by
  simp only [exec, execRxAbort, idle, rxReturn, answered]

/-! ## The statements -/

/-- Settles O36: the comparison of `body_length` with the 52 octets at hand decides between the frame and the open
transfer. -/
theorem firstReportCompletesOrOpens : Obligations.FirstReportCompletesOrOpens := by
  unfold Obligations.FirstReportCompletesOrOpens
  intro s report h ok idle full answer
  have admitted := admitted_first ok full
  have decoded := exec_hdrDec_eq_valid_iff.1 answer
  rw [exec_rxReport_of_admitted ok admitted, rxReport_idle admitted idle]
  refine ⟨fun whole => ?completes, fun longer => ?opens⟩
  case completes => rw [rxIdle_first_of_le full decoded whole, rxReturn_eq_received]
  case opens => rw [rxIdle_first_of_gt full decoded longer, openTransfer_eq, rxReturn_eq_received]

/-- Settles O38: the comparison of the octets still missing with the 61 at hand decides between the frame and a transfer
that goes on. -/
theorem awaitedReportCompletesOrGoesOn : Obligations.AwaitedReportCompletesOrGoesOn := by
  unfold Obligations.AwaitedReportCompletesOrGoesOn
  intro s t report remaining ok collecting inv full in_domain remaining_eq
  subst remaining_eq
  have admitted : Admitted s.cfg t.nextSeq report := ⟨full, one_le_two.trans inv.nextSeq_ge, in_domain⟩
  rw [exec_rxReport_of_admitted ok admitted, rxReport_collecting admitted collecting]
  refine ⟨fun last => ?completes, fun more => ?goes_on⟩
  case completes => rw [rxCollecting_next_of_le inv full last, rxReturn_eq_received]
  case goes_on => rw [rxCollecting_next_of_gt inv full more, rxReturn_eq_received]

/-- Settles O31: the length is tested first, before `rx_state` is looked at. -/
theorem wrongReportLengthFails : Obligations.WrongReportLengthFails := by
  unfold Obligations.WrongReportLengthFails
  intro s seq report fits other_length
  rw [exec_rxReport_of_fits fits, rxReport_wrong_length other_length, failEntry_eq_afterFailure]
  rfl

/-- Settles O32: the domain of `seq` is tested second, before `rx_state` is looked at. -/
theorem seqOutsideTheDomainFails : Obligations.SeqOutsideTheDomainFails := by
  unfold Obligations.SeqOutsideTheDomainFails
  intro s seq report fits full outside
  rw [exec_rxReport_of_fits fits, rxReport_outside_domain full outside, failEntry_eq_afterFailure]
  rfl

/-- Settles O34: in `IDLE` a `seq` other than 1 fails before any octet is read. -/
theorem continuationInIdleFails : Obligations.ContinuationInIdleFails := by
  unfold Obligations.ContinuationInIdleFails
  intro s seq report ok idle full continuation in_domain
  have admitted : Admitted s.cfg seq report := ⟨full, one_le_two.trans continuation, in_domain⟩
  have not_first : seq ≠ 1 := by omega
  rw [exec_rxReport_of_admitted ok admitted, rxReport_idle admitted idle, rxIdle_of_ne_one not_first,
    failEntry_eq_afterFailure]
  rfl

/-- Settles O35: the diagnostic that `HDR.DEC` answers is that of the decode, which the reassembler completes. -/
theorem invalidHeaderFailsTheFirstReport : Obligations.InvalidHeaderFailsTheFirstReport := by
  unfold Obligations.InvalidHeaderFailsTheFirstReport
  intro s report d ok idle full answer
  have admitted := admitted_first ok full
  rw [exec_rxReport_of_admitted ok admitted, rxReport_idle admitted idle,
    rxIdle_first_of_error full (exec_hdrDec_eq_invalid_iff.1 answer), failEntry_eq_afterFailure]

/-- Settles O37: in `COLLECTING` a `seq` other than `rx_next_seq`, 1 included, fails before any octet is read. -/
theorem sequenceGapOrDuplicateFails : Obligations.SequenceGapOrDuplicateFails := by
  unfold Obligations.SequenceGapOrDuplicateFails
  intro s t seq report ok collecting full positive in_domain not_awaited
  have admitted : Admitted s.cfg seq report := ⟨full, positive, in_domain⟩
  rw [exec_rxReport_of_admitted ok admitted, rxReport_collecting admitted collecting, rxCollecting_of_ne not_awaited,
    failEntry_eq_afterFailure]
  rfl

/-- Settles O39: one case for each value of `rx_state`. -/
theorem abortFailsOnlyATransfer : Obligations.AbortFailsOnlyATransfer := by
  unfold Obligations.AbortFailsOnlyATransfer
  refine ⟨selects_iff.2 fun _ => rfl, fun s => ⟨fun t collecting => ?collecting, exec_rxAbort_idle⟩⟩
  case collecting =>
    rw [exec_rxAbort_collecting collecting, failEntry_eq_afterFailure]
    rfl

end Sys2Proof.Machine
end

section
/-! PROOFS. The failures of the receive half (spec/44_reassembler.md R194, spec/60_exceptions.md R228). -/

namespace Sys2Proof.Machine

open Sys2Proof Sys2Proof.Statements

/-- The outcome `Fail` carries the record that the failure entry latches (R228). -/
theorem failEntry_response_eq_fail_iff {r r' : FailRecord} {s : State} :
    (failEntry r' s).response = some (.rx (.fail r)) ↔ r' = r := by
  simp

/-- `RX.REPORT` has the outcome `Fail` only by the failure entry, with a record of the report's `seq` (R194). -/
theorem rxReport_eq_failEntry_of_response {seq : Nat} {report : List Octet} {s : State} {r : FailRecord}
    (failed : (rxReport seq report s).response = some (.rx (.fail r))) :
    RxFailure seq r ∧ rxReport seq report s = failEntry r s := by
  obtain ⟨r', failure, entry⟩ | ⟨-, -, -, _, -, -, completes⟩ | ⟨-, -, -, _, -, -, opens⟩ |
    ⟨_, -, -, -, -, completes⟩ | ⟨_, -, -, -, -, goes_on⟩ := rxReport_cases seq report s
  · rw [entry] at failed
    obtain rfl := failEntry_response_eq_fail_iff.1 failed
    exact ⟨failure, entry⟩
  · simp [completes] at failed
  · simp [opens] at failed
  · simp [completes] at failed
  · simp [goes_on] at failed

/-- Settles O45: of all that an operation can do, only a failing report and an abort of a transfer show `Fail`, and both
are the failure entry. -/
theorem failureDoesExactlyTheEntry : Obligations.FailureDoesExactlyTheEntry := by
  unfold Obligations.FailureDoesExactlyTheEntry
  intro i s t r answers failed
  rw [← failEntry_eq_afterFailure]
  obtain ⟨-, a, no_outcome, rfl⟩ | ⟨seq, report, input, -, rfl⟩ | ⟨abort, tr, -, rfl⟩ | ⟨-, -, rfl⟩ | ⟨-, rfl⟩ :=
    exec_cases answers
  · exact absurd (Option.some.inj failed) (no_outcome _)
  · obtain ⟨⟨same_seq, -⟩, entry⟩ := rxReport_eq_failEntry_of_response failed
    exact ⟨entry, .inr ⟨report, same_seq ▸ input⟩⟩
  · obtain rfl := failEntry_response_eq_fail_iff.1 failed
    exact ⟨rfl, .inl ⟨abort, rfl⟩⟩
  · simp at failed
  · simp at failed

end Sys2Proof.Machine
end

section
/-! PROOFS. The decoder and the encoder of requests (spec/30_encoding.md R71 to R74, R81, R85). -/

namespace Sys2Proof.Machine

open Sys2Proof Sys2Proof.Statements

/-! ## The wire inputs -/

/-- Eight octets on the header input are a header image (R71). -/
theorem decode_headerImage_of_length_eq {b : List Octet} (eight : b.length = 8) :
    decode (.headerImage b) = .ok (.hdr (.ofOctets b)) := congrArg Except.ok (if_pos eight)

/-- Sixty-four octets with side-band 1 are a first report (R72, R74). -/
theorem decode_report_one {b : List Octet} (full : b.length = 64) :
    decode (.report 1 b) = .ok (.rptFirst (.ofOctets (slice b 0 8)) (slice b 8 60) (slice b 60 64)) :=
  congrArg Except.ok (if_pos full)

/-- Sixty-four octets with any other side-band are a continuation report (R73, R74). -/
theorem decode_report_of_ne_one {b : List Octet} {seq : Nat} (full : b.length = 64) (not_first : seq ≠ 1) :
    decode (.report seq b) = .ok (.rptCont seq (slice b 0 61) (slice b 61 64)) :=
  congrArg Except.ok ((if_pos full).trans (if_neg not_first))

/-! ## Which instructions have their wire parts in the sizes of the formats -/

@[simp] theorem sized_rptFirst_iff {header : HdrImage} {body pad : List Octet} :
    (Instr.rptFirst header body pad).sized = true ↔ body.length = 52 ∧ pad.length = 4 := by
  simp [Instr.sized]

@[simp] theorem sized_rptCont_iff {seq : Nat} {body pad : List Octet} :
    (Instr.rptCont seq body pad).sized = true ↔ body.length = 61 ∧ pad.length = 3 ∧ seq ≠ 1 := by
  simp [Instr.sized, and_assoc]

/-! ## Decoding what was encoded -/

/-- The octets of a header image are read as its fields (R71). -/
theorem decode_encode_hdr (image : HdrImage) : decode (encode (.hdr image)) = .ok (.hdr image) := by
  rw [encode, decode_headerImage_of_length_eq image.length_octets, HdrImage.ofOctets_octets]

/-- Header, body image and pad are found again where R72 puts them. -/
theorem decode_encode_rptFirst (header : HdrImage) {body pad : List Octet} (body_length : body.length = 52)
    (pad_length : pad.length = 4) :
    decode (encode (.rptFirst header body pad)) = .ok (.rptFirst header body pad) := by
  have full : (header.octets ++ body ++ pad).length = 64 := by
    simp [body_length, pad_length]
  have header_part : slice (header.octets ++ body ++ pad) 0 8 = header.octets := by
    rw [List.append_assoc, slice_append_first header.length_octets]
  have body_part : slice (header.octets ++ body ++ pad) 8 60 = body :=
    slice_append_middle header.length_octets (by rw [body_length])
  have pad_part : slice (header.octets ++ body ++ pad) 60 64 = pad :=
    slice_append_last (by simp [body_length]) (by rw [pad_length])
  rw [encode, decode_report_one full, header_part, body_part, pad_part, HdrImage.ofOctets_octets]

/-- Body image and pad are found again where R73 puts them. -/
theorem decode_encode_rptCont {seq : Nat} {body pad : List Octet} (body_length : body.length = 61)
    (pad_length : pad.length = 3) (not_first : seq ≠ 1) :
    decode (encode (.rptCont seq body pad)) = .ok (.rptCont seq body pad) := by
  have full : (body ++ pad).length = 64 := by rw [List.length_append, body_length, pad_length]
  have body_part : slice (body ++ pad) 0 61 = body := slice_append_first body_length
  have pad_part : slice (body ++ pad) 61 64 = pad := slice_append_last body_length (by rw [pad_length])
  rw [encode, decode_report_of_ne_one full not_first, body_part, pad_part]

/-- Settles O6: a select code or the reset input names the operation and the bus holds its operands; the three wire
formats are found again part by part. -/
theorem decodeEncodeGivesTheInstructionBack : Obligations.DecodeEncodeGivesTheInstructionBack := by
  unfold Obligations.DecodeEncodeGivesTheInstructionBack
  intro i sized
  cases i with
  | hdr image => exact decode_encode_hdr image
  | rptFirst header body pad =>
    obtain ⟨body_length, pad_length⟩ := sized_rptFirst_iff.1 sized
    exact decode_encode_rptFirst header body_length pad_length
  | rptCont seq body pad =>
    obtain ⟨body_length, pad_length, not_first⟩ := sized_rptCont_iff.1 sized
    exact decode_encode_rptCont body_length pad_length not_first
  | _ => rfl

/-! ## Encoding what was decoded -/

/-- Eight octets are those of the image they are read as (R71). -/
theorem encode_hdr_ofOctets {b : List Octet} (eight : b.length = 8) :
    encode (.hdr (.ofOctets b)) = .headerImage b := by
  rw [encode, HdrImage.octets_ofOctets eight]

/-- Sixty-four octets with side-band 1 are those of the first report they are read as (R72). -/
theorem encode_rptFirst_slices {b : List Octet} (full : b.length = 64) :
    encode (.rptFirst (.ofOctets (slice b 0 8)) (slice b 8 60) (slice b 60 64)) = .report 1 b := by
  have eight : (slice b 0 8).length = 8 := by simp [full]
  rw [encode, HdrImage.octets_ofOctets eight, split_first_report b full]

/-- Sixty-four octets are those of the continuation report they are read as (R73). -/
theorem encode_rptCont_slices {b : List Octet} (seq : Nat) (full : b.length = 64) :
    encode (.rptCont seq (slice b 0 61) (slice b 61 64)) = .report seq b := by
  rw [encode, split_continuation_report b full]

/-- Settles O7: the side-band alone tells the two report formats apart, and the parts of either put together are the
octets they were cut from. -/
theorem wireOctetsSurviveDecoding : Obligations.WireOctetsSurviveDecoding := by
  unfold Obligations.WireOctetsSurviveDecoding
  refine ⟨fun seq b full => ?report, fun b eight =>
    ⟨_, decode_headerImage_of_length_eq eight, encode_hdr_ofOctets eight⟩⟩
  case report =>
    by_cases first : seq = 1
    case pos =>
      subst first
      exact ⟨_, decode_report_one full, sized_rptFirst_iff.2 (by simp [full]), encode_rptFirst_slices full,
        iff_of_true rfl ⟨_, _, _, rfl⟩⟩
    case neg =>
      exact ⟨_, decode_report_of_ne_one full first, sized_rptCont_iff.2 (by simp [full, first]),
        encode_rptCont_slices seq full, iff_of_false first nofun⟩

/-! ## Written-out words -/

/-- Settles O2: bare words by running the decoder of table words, the two reports as encoded instructions. -/
theorem writtenOutWordsDecode : Obligations.WrittenOutWordsDecode := by
  unfold Obligations.WrittenOutWordsDecode
  refine ⟨rfl, rfl, rfl, rfl, rfl, ?first, ?continuation⟩
  case first => exact decode_encode_rptFirst ⟨0x00, 0x08, 11, 0x01, 0x03, 0⟩ List.length_replicate List.length_replicate
  case continuation =>
    exact decode_encode_rptCont List.length_replicate List.length_replicate (Nat.succ_ne_self 1)

/-! ## One step -/

/-- The step that finds an input which requests nothing leaves the engine idle (R85, R226). -/
theorem step_of_decode_error {s : State} {r : Request} {rest : List Request} {e : Reject}
    (oldest : s.requests = r :: rest) (rejected : decode r = .error e) :
    step s = .next (stayIdle { s with requests := rest }) := by
  cases e
  simp only [step, oldest, rejected]

/-- With no request the engine stays idle (R226). -/
theorem step_of_no_request {s : State} (none_left : s.requests = []) : step s = .next (stayIdle s) := by
  simp only [step, none_left]

/-- Settles O4: one case for an empty stream and one for each answer of the decoder. -/
theorem stepPerformsTheDecodedRequest : Obligations.StepPerformsTheDecodedRequest := by
  unfold Obligations.StepPerformsTheDecodedRequest
  exact fun s => ⟨step_of_no_request, fun r rest oldest =>
    ⟨fun i => step_eq_exec oldest, fun e => step_of_decode_error oldest⟩⟩

/-- A table word that is read as an instruction is a request that decodes to it. -/
theorem exists_request_of_decodeTableWord {nbits w : Nat} {i : Instr} (h : decodeTableWord nbits w = some i) :
    ∃ r, requestOfWord nbits w = some r ∧ decode r = .ok i := by
  unfold decodeTableWord at h
  split at h
  case h_1 => cases h
  case h_2 r word =>
    split at h
    case h_1 j decoded => exact ⟨r, word, decoded.trans (congrArg _ (Option.some.inj h))⟩
    case h_2 => cases h

/-- A placed table word is the oldest request of the stream. -/
theorem withFetchWord_of_requestOfWord {s : State} {nbits w : Nat} {r : Request}
    (word : requestOfWord nbits w = some r) :
    s.withFetchWord nbits w = { s with requests := r :: s.requests } := by
  simp only [State.withFetchWord, word]

/-- Settles O5: the placed word is the oldest request, and taking it off restores the stream. -/
theorem placedTableWordRunsNext : Obligations.PlacedTableWordRunsNext := by
  unfold Obligations.PlacedTableWordRunsNext
  intro s nbits w i read
  obtain ⟨r, word, decoded⟩ := exists_request_of_decodeTableWord read
  rw [withFetchWord_of_requestOfWord word]
  exact step_eq_exec rfl decoded

/-- Settles O9: staying idle keeps the parameters and no operation writes them; every step with a request takes it
off. -/
theorem stepKeepsTheParameters : Obligations.StepKeepsTheParameters := by
  unfold Obligations.StepKeepsTheParameters
  intro s t answers
  obtain ⟨none_left, rfl⟩ | ⟨r, rest, oldest, ⟨-, rfl⟩ | ⟨i, -, answers⟩⟩ := step_cases answers
  case inl => exact ⟨rfl, by simp [none_left]⟩
  case inr.inl => exact ⟨rfl, by simp [oldest]⟩
  case inr.inr =>
    obtain ⟨same_cfg, same_requests⟩ := exec_frame answers
    exact ⟨same_cfg, by simp [same_requests, oldest]⟩

end Sys2Proof.Machine
end

section
/-! PROOFS. The invariant of the engine (spec/10_state.md R30, R28, R29) along every operation and every step. -/

namespace Sys2Proof.Machine

open Sys2Proof Sys2Proof.Statements

/-! ## The status registers -/

/-- "No failure yet" is what the status registers may hold, whatever the parameters (R28). -/
theorem StatusInv.none (c : Config) : StatusInv c .none where
  receiveSide := rfl
  seq_fits := Nat.two_pow_pos c.seqW
  field_zero _ := rfl
  none_zero _ := rfl

/-- The record of a failing report is one that the status registers may hold (R194, R225). -/
theorem RxFailure.statusInv {c : Config} {seq : Nat} {r : FailRecord} (failure : RxFailure seq r)
    (fits : seq < 2 ^ c.seqW) : StatusInv c r := by
  obtain ⟨rfl, receive_side, some_reason, -, field_zero⟩ := failure
  exact ⟨receive_side, fits, field_zero, fun no_reason => absurd no_reason some_reason⟩

/-- The record of an abort is one that the status registers may hold (R196). -/
theorem statusInv_abortedByCaller (c : Config) (bodyLength count : Nat) :
    StatusInv c (abortedByCaller bodyLength count) where
  receiveSide := rfl
  seq_fits := Nat.two_pow_pos c.seqW
  field_zero _ := rfl
  none_zero := nofun

/-! ## The transfer in flight -/

/-- The transfer that a valid first report opens meets R30. -/
theorem openTransfer_inv {c : Config} {b payload : List Octet} {h : HeaderFields} (in_domain : 1 ≤ c.seqMax)
    (decoded : hdrDec c b = .ok h) (longer : 52 < h.bodyLength.toNat) (full : payload.length = 52) :
    (openTransfer h payload).Inv c := by
  obtain ⟨pid_member, emi_member⟩ := members_of_hdrDec decoded
  exact
    { bodyLength_gt := longer
      nextSeq_ge := Nat.le_refl 2
      nextSeq_le := Nat.succ_le_succ in_domain
      count_eq := rfl
      count_lt := longer
      count_le := Nat.le_add_right 52 _
      buf_length := by rw [openTransfer_buf, full, openTransfer_count]
      pid_member := pid_member
      emi_member := emi_member }

/-- The share of a report that does not complete its transfer is its whole body image (R189). -/
theorem takeCount_of_incomplete {t : Transfer} (missing : t.count < t.bodyLength.toNat)
    (incomplete : t.count + takeCount t ≠ t.bodyLength.toNat) :
    takeCount t = 61 ∧ t.count + 61 < t.bodyLength.toNat := by
  simp only [takeCount, capCont] at *
  omega

/-- A transfer that goes on after a report of the domain still meets R30. -/
theorem Transfer.Inv.goesOn {c : Config} {t : Transfer} {payload : List Octet} (inv : t.Inv c)
    (in_domain : t.nextSeq ≤ c.seqMax) (full : payload.length = 61)
    (incomplete : t.count + takeCount t ≠ t.bodyLength.toNat) :
    Transfer.Inv c { appendSegment t payload with nextSeq := t.nextSeq + 1 } := by
  obtain ⟨share, missing⟩ := takeCount_of_incomplete inv.count_lt incomplete
  have started := inv.nextSeq_ge
  have count_eq := inv.count_eq
  rw [appendSegment_eq inv.buf_length, share]
  exact
    { bodyLength_gt := inv.bodyLength_gt
      nextSeq_ge := Nat.le_succ_of_le started
      nextSeq_le := Nat.succ_le_succ in_domain
      count_eq := by simp only [capFirst, capCont] at *; omega
      count_lt := missing
      count_le := by simp only [Config.rxBufLen, capFirst, capCont] at *; omega
      buf_length := by simp [inv.buf_length, full]
      pid_member := inv.pid_member
      emi_member := inv.emi_member }

/-! ## The shared updates -/

/-- The stream and the response are no part of the invariant. -/
theorem EngineInv.of_sameEngine {s t : State} (inv : EngineInv s) (same : SameEngine s t) : EngineInv t := by
  obtain ⟨cfg_eq, rx_eq, status_eq, count_eq⟩ := same
  exact
    { context := by rw [cfg_eq, rx_eq]; exact inv.context
      status := by rw [cfg_eq, status_eq]; exact inv.status
      counter := by rw [cfg_eq, count_eq]; exact inv.counter }

/-- A receive operation keeps the invariant when what it leaves in flight, if anything, meets R30. -/
theorem EngineInv.rxReturn {s : State} {x : RxContext} (inv : EngineInv s) (o : RxOutcome)
    (context : ∀ t, x = .collecting t → t.Inv s.cfg) : EngineInv (rxReturn x o s) where
  context := context
  status := inv.status
  counter := inv.counter

/-- The failure entry leaves no transfer and saturates the counter, so the record alone decides (R228, R29). -/
theorem engineInv_failEntry {s : State} {r : FailRecord} (status : StatusInv s.cfg r) :
    EngineInv (failEntry r s) where
  context := nofun
  status := status
  counter := satInc_lt s.cfg.cntW s.rxFailCount

/-- A fresh engine meets the invariant. -/
theorem engineInv_fresh (c : Config) : EngineInv (State.fresh c) where
  context := nofun
  status := .none c
  counter := Nat.two_pow_pos c.cntW

/-! ## Operations and steps -/

/-- `RX.REPORT` of a `seq` that the side-band carries keeps the invariant. -/
theorem EngineInv.rxReport {s : State} {seq : Nat} (inv : EngineInv s) (report : List Octet)
    (fits : seq < 2 ^ s.cfg.seqW) : EngineInv (rxReport seq report s) := by
  obtain ⟨r, failure, fails⟩ | ⟨-, -, -, h, -, -, completes⟩ |
    ⟨-, rfl, ⟨full, -, in_domain⟩, h, decoded, longer, opens⟩ | ⟨t, -, -, -, -, completes⟩ |
    ⟨t, collecting, rfl, ⟨full, -, in_domain⟩, incomplete, goes_on⟩ := rxReport_cases seq report s
  · rw [fails]
    exact engineInv_failEntry (failure.statusInv fits)
  · rw [completes]
    exact inv.rxReturn _ nofun
  · rw [opens]
    refine inv.rxReturn _ fun t opened => ?_
    cases opened
    exact openTransfer_inv in_domain decoded longer (length_bodyImage_first full)
  · rw [completes]
    exact inv.rxReturn _ nofun
  · rw [goes_on]
    refine inv.rxReturn _ fun t' continued => ?_
    cases continued
    exact (inv.context t collecting).goesOn in_domain (length_bodyImage_continuation full) incomplete

/-- Every operation that answers keeps the invariant. -/
theorem EngineInv.exec {i : Instr} {s t : State} (inv : EngineInv s) (answers : exec i s = .next t) :
    EngineInv t := by
  obtain ⟨-, r, -, rfl⟩ | ⟨seq, report, -, fits, rfl⟩ | ⟨-, tr, -, rfl⟩ | ⟨-, -, rfl⟩ | ⟨-, rfl⟩ :=
    exec_cases answers
  · exact inv.of_sameEngine ⟨rfl, rfl, rfl, rfl⟩
  · exact inv.rxReport report fits
  · exact engineInv_failEntry (statusInv_abortedByCaller _ _ _)
  · exact inv.rxReturn _ nofun
  · exact (engineInv_fresh s.cfg).of_sameEngine ⟨rfl, rfl, rfl, rfl⟩

/-- Settles O59: a step stays idle, which writes no register, or performs an operation, which keeps the invariant. -/
theorem everyStepKeepsTheInvariant : Obligations.EveryStepKeepsTheInvariant := by
  unfold Obligations.EveryStepKeepsTheInvariant
  intro s t inv answers
  obtain ⟨-, rfl⟩ | ⟨r, rest, -, ⟨-, rfl⟩ | ⟨i, -, answers⟩⟩ := step_cases answers
  · exact inv.of_sameEngine ⟨rfl, rfl, rfl, rfl⟩
  · exact inv.of_sameEngine ⟨rfl, rfl, rfl, rfl⟩
  · have taken_off : EngineInv { s with requests := rest } := inv.of_sameEngine ⟨rfl, rfl, rfl, rfl⟩
    exact taken_off.exec answers

/-- Settles O58: `State.reset` is the fresh engine with the default parameters. -/
theorem freshEngineMeetsTheInvariant : Obligations.FreshEngineMeetsTheInvariant := by
  unfold Obligations.FreshEngineMeetsTheInvariant
  exact ⟨engineInv_fresh, engineInv_fresh Config.default⟩

end Sys2Proof.Machine
end

section
/-! PROOFS. The catalogs as bijections and the capacity of a segment (spec/40_catalogs.md R100, R104 to R106). -/

namespace Sys2Proof.Machine

open Sys2Proof Sys2Proof.Statements

/-- Settles O11: what either function finds stands in the table beside its argument, where the other finds it again. -/
theorem catalogCodeAndDecodeAreInverse : Obligations.CatalogCodeAndDecodeAreInverse := by
  unfold Obligations.CatalogCodeAndDecodeAreInverse
  intro α _ t ⟨codes, members⟩
  refine ⟨fun raw m decoded => catalogCode_of_mem members (mem_of_catalogDecode decoded), fun m member => ?_⟩
  obtain ⟨code, coded⟩ := catalogCode_of_isMember member
  exact ⟨code, coded, catalogDecode_of_mem codes (mem_of_catalogCode coded)⟩

/-! ## The kind of a sequence number and its capacity -/

/-- 1 is the number of a first segment (R106). -/
theorem kind_one (c : Config) : kind c 1 = .ok .first := if_pos rfl

/-- 2 to `SEQ_MAX` are the numbers of continuations (R106). -/
theorem kind_of_two_le {c : Config} {seq : Nat} (continuation : 2 ≤ seq) (in_domain : seq ≤ c.seqMax) :
    kind c seq = .ok .continuation := by
  have not_first : seq ≠ 1 := by omega
  exact (if_neg not_first).trans (if_pos ⟨continuation, in_domain⟩)

/-- 0 and the numbers above `SEQ_MAX` are of no kind (R106). -/
theorem kind_of_outside {c : Config} {seq : Nat} (positive : 1 ≤ c.seqMax) (outside : seq = 0 ∨ c.seqMax < seq) :
    kind c seq = .unknownEnumValue seq := by
  have not_first : seq ≠ 1 := by omega
  have no_continuation : ¬(2 ≤ seq ∧ seq ≤ c.seqMax) := by omega
  exact (if_neg not_first).trans (if_neg no_continuation)

/-- `CAP` answers the capacity of the kind of its `seq` (R104). -/
@[simp] theorem exec_cap (seq : Nat) (s : State) :
    exec (.cap seq) s = .next (answered s (.capacity (cap s.cfg seq))) := rfl

/-- Settles O12: the kind of `seq` decides, and the three clauses are the three kinds of answer of R106. -/
theorem capAnswersTheCapacityOfItsKind : Obligations.CapAnswersTheCapacityOfItsKind := by
  unfold Obligations.CapAnswersTheCapacityOfItsKind
  refine ⟨selects_iff.2 fun _ => rfl, rfl, rfl, fun s seq ok => ⟨fun first => ?first,
    fun continuation in_domain => ?continuation, fun outside => ?outside⟩⟩
  case first =>
    subst first
    exact ⟨kind_one s.cfg, by rw [exec_cap, cap, kind_one]⟩
  case continuation =>
    have continues := kind_of_two_le continuation in_domain
    exact ⟨continues, by rw [exec_cap, cap, continues]⟩
  case outside =>
    have unknown := kind_of_outside ok.seqMax_pos outside
    exact ⟨unknown, by rw [exec_cap, cap, unknown]⟩

end Sys2Proof.Machine
end

section
/-! PROOFS. Serialized headers, header images as inputs, and names outside the tables (spec/41_header_codec.md R121 to
R123, spec/43_fragmenter.md R160). -/

namespace Sys2Proof.Machine

open Sys2Proof Sys2Proof.Statements

/-! ## What each operation answers -/

/-- A bare header image is answered as `HDR.DEC` answers its octets (R71, R122). -/
@[simp] theorem exec_hdr (image : HdrImage) (s : State) :
    exec (.hdr image) s = .next (answered s (headerResponse (hdrCheck s.cfg image))) := by
  rw [← hdrDec_octets]
  rfl

/-- `HDR.TOB` of a header that has no octets is refused (R100). -/
theorem exec_hdrTob_of_none {s : State} {hdr : Header} (no_octets : hdrTob s.cfg hdr = none) :
    exec (.hdrTob hdr) s = .refused .notAMember := by
  simp only [exec, execHdrTob, no_octets]

/-- `TX.FRAG` of a name outside its table is refused, whatever the frame (R160). -/
theorem exec_txFrag_of_not_members {s : State} {pid : ProtocolId} {emi : EmiId} (frame : List Octet)
    (outside : ¬(Config.isMember s.cfg.pidTable pid ∧ Config.isMember s.cfg.emiTable emi)) :
    exec (.txFrag pid emi frame) s = .refused .notAMember :=
  if_neg fun members => outside ((membersOk_iff s.cfg pid emi).1 members)

/-! ## The codec's functions -/

/-- A valid header with a name outside its table has no octets (R100). -/
theorem hdrTob_of_not_members {c : Config} {f : HeaderFields}
    (outside : ¬(Config.isMember c.pidTable f.protocolId ∧ Config.isMember c.emiTable f.emiId)) :
    hdrTob c (.valid f) = none := by
  by_cases pid_member : Config.isMember c.pidTable f.protocolId
  case pos =>
    have emi_outside : ¬Config.isMember c.emiTable f.emiId := fun emi_member => outside ⟨pid_member, emi_member⟩
    obtain ⟨p, pid_code⟩ := catalogCode_of_isMember pid_member
    simp only [hdrTob, pid_code, catalogCode_of_not_isMember emi_outside]
  case neg => simp only [hdrTob, catalogCode_of_not_isMember pid_member]

/-- A valid header whose identifiers stand beside `p` and `e` in their tables has the octets of its fields (R123). -/
theorem hdrTob_of_mem {c : Config} (ok : c.Ok) {f : HeaderFields} {p e : Octet}
    (pid_found : (p, f.protocolId) ∈ c.pidTable) (emi_found : (e, f.emiId) ∈ c.emiTable) :
    hdrTob c (.valid f) = some (HdrImage.octets
      { protocolVersion := f.protocolVersion, headerLength := f.headerLength, bodyLength := f.bodyLength,
        protocolId := p, emiId := e, manufacturerCode := f.manufacturerCode }) :=
  hdrTob_valid (catalogCode_of_mem ok.pidTable_catalog.2 pid_found) (catalogCode_of_mem ok.emiTable_catalog.2 emi_found)

/-- The header of octets that decode valid has those octets again (R123): every field of the image is either kept or a
code beside its member. -/
theorem hdrTob_of_hdrDec {c : Config} (ok : c.Ok) {b : List Octet} {f : HeaderFields} (decoded : hdrDec c b = .ok f) :
    hdrTob c (.valid f) = some b := by
  obtain ⟨eight, checked⟩ := hdrDec_ok decoded
  obtain ⟨version, length, image_version, image_length, pid_found, emi_found, body_length, manufacturer⟩ :=
    hdrCheck_ok checked
  rw [hdrTob_of_mem ok pid_found emi_found, version, length, body_length, manufacturer, ← image_version, ← image_length]
  exact congrArg some (HdrImage.octets_ofOctets eight)

/-! ## The statements -/

/-- Settles O17: a valid answer is a successful decode, whose header has its octets again. -/
theorem decodedHeaderSerializesBack : Obligations.DecodedHeaderSerializesBack := by
  unfold Obligations.DecodedHeaderSerializesBack
  intro s b f ok answer
  exact exec_hdrTob_of_some (hdrTob_of_hdrDec ok (exec_hdrDec_eq_valid_iff.1 answer))

/-- Settles O15: no octets for an invalid header, and the octets of its fields for a valid one. -/
theorem hdrTobSerializes : Obligations.HdrTobSerializes := by
  unfold Obligations.HdrTobSerializes
  exact ⟨selects_iff.2 fun _ => rfl, fun s ok => ⟨exec_hdrTob_of_some rfl, fun f p e pid_found emi_found =>
    exec_hdrTob_of_some (hdrTob_of_mem ok pid_found emi_found)⟩⟩

/-- Settles O19: `HDR.ENC` and `TX.FRAG` test the names, and `HDR.TOB` finds no code for one of them. -/
theorem namesOutsideTheTablesAreRefused : Obligations.NamesOutsideTheTablesAreRefused := by
  unfold Obligations.NamesOutsideTheTablesAreRefused
  intro s pid emi outside
  refine ⟨fun bodyLength => exec_hdrEnc_of_not_members bodyLength outside,
    fun frame => exec_txFrag_of_not_members frame outside, fun f pid_eq emi_eq => ?hdrTob⟩
  case hdrTob =>
    subst pid_eq emi_eq
    exact exec_hdrTob_of_none (hdrTob_of_not_members outside)

/-- Settles O41: an image with legal fields passes all the tests of `HDR.DEC`. -/
theorem headerImageGivesItsHeader : Obligations.HeaderImageGivesItsHeader := by
  unfold Obligations.HeaderImageGivesItsHeader
  intro s image pid emi ok version length pid_found emi_found
  rw [exec_hdr, hdrCheck_of_mem ok.pidTable_catalog.1 ok.emiTable_catalog.1 version length pid_found emi_found]
  rfl

end Sys2Proof.Machine
end

section
/-! PROOFS. What the body codec serializes and what it tells of a body (spec/42_body_codec.md R143 to R145). -/

namespace Sys2Proof.Machine

open Sys2Proof Sys2Proof.Statements

/-! ## What each operation answers -/

/-- `BODY.MC` answers the message code of the body (R144). -/
@[simp] theorem exec_bodyMc (body : Body) (s : State) :
    exec (.bodyMc body) s = .next (answered s (.emiMessageCode (bodyMc body))) := rfl

/-- `BODY.LEN` answers the length of the body (R145). -/
@[simp] theorem exec_bodyLen (body : Body) (s : State) :
    exec (.bodyLen body) s = .next (answered s (.length (bodyLen body))) := rfl

/-! ## The codec's functions -/

/-- A payload over the width asked for has no octets (R143). -/
theorem bodyTob_of_capacity_lt {f : BodyFields} {k : Bool} (exceeds : capacity k < f.payload.length) :
    bodyTob (.valid f) k = [] := if_pos exceeds

/-- A payload within the width asked for is padded with zeros up to it (R143). -/
theorem bodyTob_of_length_le {f : BodyFields} {k : Bool} (fits : f.payload.length ≤ capacity k) :
    bodyTob (.valid f) k = f.payload ++ zeros (capacity k - f.payload.length) := if_neg fits.not_gt

/-! ## The statements -/

/-- Settles O22: the comparison with the width asked for decides between no octets and the padded payload. -/
theorem bodyTobPadsToWidth : Obligations.BodyTobPadsToWidth := by
  unfold Obligations.BodyTobPadsToWidth
  refine ⟨selects_iff.2 fun _ => rfl, fun s f isPartial cap cap_eq => ?_⟩
  obtain rfl : cap = capacity isPartial := cap_eq
  refine ⟨exec_bodyTob .invalid isPartial s, fun exceeds => ?exceeds, fun fits => ?within⟩
  case exceeds => rw [exec_bodyTob, bodyTob_of_capacity_lt exceeds]
  case within =>
    rw [exec_bodyTob, bodyTob_of_length_le fits]
    rfl

/-- Settles O23: one case for an invalid body, a continuation, an empty first segment and one with a first octet. -/
theorem bodyMcIsTheFirstOctet : Obligations.BodyMcIsTheFirstOctet := by
  unfold Obligations.BodyMcIsTheFirstOctet
  exact ⟨selects_iff.2 fun _ => rfl, fun s => ⟨exec_bodyMc _ s, fun payload => exec_bodyMc _ s, exec_bodyMc _ s,
    fun o payload => exec_bodyMc _ s⟩⟩

/-- Settles O24: one case for each value of the `valid` mark. -/
theorem bodyLenIsThePayloadLength : Obligations.BodyLenIsThePayloadLength := by
  unfold Obligations.BodyLenIsThePayloadLength
  exact ⟨selects_iff.2 fun _ => rfl, fun s => ⟨exec_bodyLen .invalid s, fun f => exec_bodyLen (.valid f) s⟩⟩

end Sys2Proof.Machine
end

section
/-! PROOFS. The codes of reasons and fields (spec/60_exceptions.md R221, R224). -/

namespace Sys2Proof.Machine

open Sys2Proof Sys2Proof.Statements

/-- The reason that a code stands for (R221); the codes 10 to 15 are reserved and read as no failure. -/
def reasonOfCode (code : BitVec 4) : Reason :=
  match code.toNat with
  | 1 => .malformedLength
  | 2 => .unknownEnumValue
  | 3 => .protocolVersionMismatch
  | 4 => .headerLengthMismatch
  | 5 => .unexpectedContinuation
  | 6 => .sequenceGapOrDuplicate
  | 7 => .frameTooLarge
  | 8 => .capacityExceeded
  | 9 => .abortedByCaller
  | _ => .none

/-- The field that a code stands for (R224). -/
def fieldOfCode (code : BitVec 2) : EnumField :=
  match code.toNat with
  | 1 => .protocolId
  | 2 => .emiId
  | 3 => .messageCode
  | _ => .seq

/-- A reason is found again from its code, so no two have the same (R221). -/
theorem reasonOfCode_leftInverse : Function.LeftInverse reasonOfCode reasonCode := by
  intro r
  cases r <;> rfl

/-- A field is found again from its code, so no two have the same (R224). -/
theorem fieldOfCode_leftInverse : Function.LeftInverse fieldOfCode fieldCode := by
  intro f
  cases f <;> rfl

/-- Settles O57: the two tables by evaluation, and what a code stands for can be read from it. -/
theorem reasonAndFieldCodes : Obligations.ReasonAndFieldCodes := by
  unfold Obligations.ReasonAndFieldCodes
  exact ⟨rfl, rfl, fun _ _ same => reasonOfCode_leftInverse.injective same,
    fun _ _ same => fieldOfCode_leftInverse.injective same⟩

end Sys2Proof.Machine
end

section
/-! PROOFS. The reports that `TX.FRAG` yields for an accepted frame (spec/43_fragmenter.md R161 to R165, R167,
spec/20_memory.md R53, R76). -/

namespace Sys2Proof.Machine

open Sys2Proof Sys2Proof.Statements

/-! ## The operation -/

/-- The fragmenter makes the reports of a frame within the limit from the octets of its header (R161). -/
theorem txFrag_of_length_le {c : Config} {pid : ProtocolId} {emi : EmiId} {frame header : List Octet}
    (accepted : frame.length ≤ c.maxFrameLen)
    (serialized : hdrTob c (hdrEnc (BitVec.ofNat 16 frame.length) pid emi) = some header) :
    txFrag c pid emi frame = some (.reports (fragReports header frame)) := by
  rw [txFrag, if_neg accepted.not_gt, serialized]

/-- Where `TX.FRAG` answers reports, they are those of a frame within the limit, made with a header of 8 octets. -/
theorem eq_fragReports_of_exec {s t : State} {pid : ProtocolId} {emi : EmiId} {frame : List Octet}
    {rs : List (Nat × List Octet)} (answers : exec (.txFrag pid emi frame) s = .next t)
    (answer : t.response = some (.reports rs)) :
    frame.length ≤ s.cfg.maxFrameLen ∧ ∃ header, header.length = 8 ∧ rs = fragReports header frame := by
  obtain ⟨header, -, eight, rfl⟩ | rfl := txFrag_cases answers
  case inr => cases answer
  case inl =>
    cases answer
    refine ⟨Nat.le_of_not_gt fun too_large => ?_, header, eight, rfl⟩
    by_cases members : Config.isMember s.cfg.pidTable pid ∧ Config.isMember s.cfg.emiTable emi
    case pos =>
      rw [exec_txFrag_of_members members.1 members.2 (txFrag_of_maxFrameLen_lt pid emi too_large)] at answers
      simp [answered, respond] at answers
    case neg =>
      rw [exec_txFrag_of_not_members frame members] at answers
      cases answers

/-! ## The octets of the reports -/

/-- A frame within the limit of R8 has a length that the 16-bit field holds, so its two octets are those of R71. -/
theorem octets_hdrEnc_length {n : Nat} (fits : n < 2 ^ 16) (p e : Octet) :
    HdrImage.octets
      { protocolVersion := protocolVersion, headerLength := headerLength, bodyLength := BitVec.ofNat 16 n,
        protocolId := p, emiId := e, manufacturerCode := mfrStandard } =
      [0, 8, BitVec.ofNat 8 (n / 256), BitVec.ofNat 8 (n % 256), p, e, 0, 0] := by
  have held : (BitVec.ofNat 16 n).toNat = n := by rw [BitVec.toNat_ofNat, Nat.mod_eq_of_lt fits]
  simp only [HdrImage.octets, hi, lo, held]
  rfl

/-- The reports of a frame, octet by octet (R161, R164): 52 octets, then 61 at a time, zeros after them. -/
theorem fragReports_eq (header frame : List Octet) :
    fragReports header frame =
      (1, header ++ frame.take 52 ++ zeros (56 - min frame.length 52)) ::
      (List.range ((frame.length - 52 + 60) / 61)).map fun k =>
        (k + 2, (frame.drop (52 + 61 * k)).take 61 ++ zeros (64 - min (frame.length - (52 + 61 * k)) 61)) := by
  have turns : (frame.length - capFirst + 60) / 61 ≤ frame.length := by
    simp only [capFirst]
    omega
  rw [fragReports, firstReport_eq, fragLoop_eq frame frame.length capFirst 2 turns]
  congr 1
  · simp only [List.length_take, Nat.min_comm]
  · refine List.map_congr_left fun k _ => ?_
    simp only [capFirst, slice_add, List.length_take, List.length_drop, Nat.add_comm 2, Nat.min_comm]

/-- Settles O26: the header's octets are those of R71 for the frame's length, and the reports are made of them and the
frame. -/
theorem txFragYieldsTheReportsOfTheFrame : Obligations.TxFragYieldsTheReportsOfTheFrame := by
  unfold Obligations.TxFragYieldsTheReportsOfTheFrame
  refine ⟨selects_iff.2 fun _ => rfl, fun s pid emi frame p e ok pid_found emi_found => ?_⟩
  have pid_member : Config.isMember s.cfg.pidTable pid := List.mem_map_of_mem (f := Prod.snd) pid_found
  have emi_member : Config.isMember s.cfg.emiTable emi := List.mem_map_of_mem (f := Prod.snd) emi_found
  refine ⟨fun too_large => ?too_large, fun accepted => ?accepted⟩
  case too_large =>
    exact exec_txFrag_of_members pid_member emi_member (txFrag_of_maxFrameLen_lt pid emi too_large)
  case accepted =>
    have fits : frame.length < 2 ^ 16 := Nat.lt_succ_of_le (accepted.trans ok.maxFrameLen_le)
    have serialized := hdrTob_of_mem ok (f := ⟨protocolVersion, headerLength, BitVec.ofNat 16 frame.length, pid, emi,
      mfrStandard⟩) pid_found emi_found
    rw [octets_hdrEnc_length fits] at serialized
    rw [exec_txFrag_of_members pid_member emi_member (txFrag_of_length_le accepted serialized), fragReports_eq]
    rfl

/-- Settles O28: `TX.FRAG` answers all the reports, the first of which always exists, or the one failure. -/
theorem txFragNeverReportsCapacityExceeded : Obligations.TxFragNeverReportsCapacityExceeded := by
  unfold Obligations.TxFragNeverReportsCapacityExceeded
  intro s t pid emi frame answers
  obtain ⟨header, -, -, rfl⟩ | rfl := txFrag_cases answers
  · exact .inl ⟨_, List.cons_ne_nil _ _, rfl⟩
  · exact .inr ⟨_, rfl, rfl, nofun⟩

/-! ## The reports put together -/

/-- Every report has 64 octets (R53). -/
theorem length_of_mem_fragReports {header frame : List Octet} (eight : header.length = 8) :
    ∀ p ∈ fragReports header frame, p.2.length = 64 := by
  intro p listed
  rw [fragReports_eq, List.mem_cons, List.mem_map] at listed
  obtain rfl | ⟨k, -, rfl⟩ := listed
  · simp only [List.length_append, List.length_take, length_zeros, eight]
    omega
  · simp only [List.length_append, List.length_take, List.length_drop, length_zeros]
    omega

/-- The reports are tagged 1, 2, 3 and so on (R76, R77). -/
theorem tags_fragReports (header frame : List Octet) :
    (fragReports header frame).map Prod.fst = (List.range (fragReports header frame).length).map (· + 1) := by
  rw [fragReports_eq]
  simp [List.range_succ_eq_map, Function.comp_def]

/-- A sequence cut in two is whole again when the first part is filled up with zeros and the second followed by zeros:
the first part is short only when the second is empty. -/
theorem padded_append_rest (b : List Octet) (n z : Nat) :
    b.take n ++ zeros (n - b.length) ++ (b.drop n ++ zeros z) = b ++ zeros (n - b.length + z) := by
  rcases Nat.le_total n b.length with whole | short
  · have no_pad : n - b.length = 0 := Nat.sub_eq_zero_of_le whole
    rw [no_pad, Nat.zero_add, zeros, List.replicate_zero, List.append_nil, ← List.append_assoc, List.take_append_drop]
  · rw [List.take_of_length_le short, List.drop_of_length_le short, List.nil_append, List.append_assoc, zeros, zeros,
      List.replicate_append_replicate, zeros]

/-- What a width takes of a piece of a frame, padded at least to that width. -/
theorem take_padded (b : List Octet) {n pad : Nat} (filled : n ≤ (b.take n).length + pad) :
    (b.take n ++ zeros pad).take n = b.take n ++ zeros (n - b.length) := by
  rw [List.length_take] at filled
  have pad_share : min (n - min n b.length) pad = n - b.length := by omega
  simp only [List.take_append, List.take_take, Nat.min_self, zeros, List.take_replicate, List.length_take, pad_share]

/-- The payload part of the first report: up to 52 octets of the frame, zeros after them (R72). -/
theorem payloadPart_first {header : List Octet} (eight : header.length = 8) (frame : List Octet) :
    payloadPart (1, header ++ frame.take 52 ++ zeros (56 - (frame.take 52).length)) =
      frame.take 52 ++ zeros (52 - frame.length) := by
  have body : (header ++ frame.take 52 ++ zeros (56 - (frame.take 52).length)).drop 8 =
      frame.take 52 ++ zeros (56 - (frame.take 52).length) := by
    rw [List.append_assoc, ← eight, List.drop_left]
  rw [payloadPart, if_pos rfl, body, take_padded frame (by omega)]

/-- The payload part of a continuation report: up to 61 octets of the frame, zeros after them (R73). -/
theorem payloadPart_continuation {seq : Nat} (continuation : seq ≠ 1) (rest : List Octet) :
    payloadPart (seq, rest.take 61 ++ zeros (64 - (rest.take 61).length)) =
      rest.take 61 ++ zeros (61 - rest.length) := by
  rw [payloadPart, if_neg continuation, take_padded rest (by omega)]

/-- The payload parts of the continuation reports, in order, are the frame from `off` on, with zeros after it (R76). -/
theorem flatten_payloadPart_fragLoop (n : Nat) (frame : List Octet) (off seq : Nat) (continuation : 2 ≤ seq)
    (turns : (frame.length - off + 60) / 61 ≤ n) :
    ∃ z, ((fragLoop n frame off seq).map payloadPart).flatten = frame.drop off ++ zeros z := by
  induction n generalizing off seq with
  | zero =>
    have past_end : frame.length ≤ off := by omega
    exact ⟨0, by rw [List.drop_of_length_le past_end]; rfl⟩
  | succ n ih =>
    by_cases more : off < frame.length
    case pos =>
      obtain ⟨z, rest⟩ := ih (off + capCont) (seq + 1) (by omega) (by simp only [capCont]; omega)
      have not_first : seq ≠ 1 := by omega
      refine ⟨61 - (frame.drop off).length + z, ?_⟩
      rw [fragLoop, if_pos more, List.map_cons, List.flatten_cons, rest, contReport_eq, slice_add,
        payloadPart_continuation not_first, ← List.drop_drop, padded_append_rest]
    case neg =>
      have past_end : frame.length ≤ off := Nat.le_of_not_gt more
      exact ⟨0, by rw [fragLoop, if_neg more, List.drop_of_length_le past_end]; rfl⟩

/-- The payload parts of all the reports, in order, are the frame, with zeros after it (R76). -/
theorem flatten_payloadPart_fragReports {header : List Octet} (eight : header.length = 8) (frame : List Octet) :
    ∃ z, ((fragReports header frame).map payloadPart).flatten = frame ++ zeros z := by
  obtain ⟨z, rest⟩ := flatten_payloadPart_fragLoop frame.length frame capFirst 2 (Nat.le_refl 2)
    (by simp only [capFirst]; omega)
  refine ⟨52 - frame.length + z, ?_⟩
  rw [fragReports, List.map_cons, List.flatten_cons, rest, firstReport_eq, payloadPart_first eight, padded_append_rest]

/-- Settles O29: the reports are those of the frame, and what follows the frame in their payload parts is padding. -/
theorem reportsConcatenateToTheFrame : Obligations.ReportsConcatenateToTheFrame := by
  unfold Obligations.ReportsConcatenateToTheFrame
  intro s t pid emi frame rs answers answer
  obtain ⟨-, header, eight, rfl⟩ := eq_fragReports_of_exec answers answer
  obtain ⟨z, put_together⟩ := flatten_payloadPart_fragReports eight frame
  exact ⟨by rw [put_together, List.take_left], length_of_mem_fragReports eight, tags_fragReports header frame⟩

/-- The tag of a report is one of 1 to `NREP(L)` (R163). -/
theorem tag_of_mem_fragReports {header frame : List Octet} {p : Nat × List Octet}
    (listed : p ∈ fragReports header frame) : 1 ≤ p.1 ∧ p.1 ≤ nrep frame.length := by
  have tag : p.1 ∈ (fragReports header frame).map Prod.fst := List.mem_map_of_mem listed
  rw [tags_fragReports, length_fragReports, List.mem_map] at tag
  obtain ⟨k, below, tag⟩ := tag
  have := List.mem_range.1 below
  omega

/-- Settles O30: the tags go up to the number of reports, which is at most that of the longest accepted frame. -/
theorem tagsStayOnTheSideBandWhenSetUp : Obligations.TagsStayOnTheSideBandWhenSetUp := by
  unfold Obligations.TagsStayOnTheSideBandWhenSetUp
  intro s t pid emi frame rs ok ready answers answer p listed
  obtain ⟨accepted, header, -, rfl⟩ := eq_fragReports_of_exec answers answer
  obtain ⟨positive, counted⟩ := tag_of_mem_fragReports listed
  have in_domain : p.1 ≤ s.cfg.seqMax :=
    calc p.1 ≤ nrep frame.length := counted
      _ ≤ nrep s.cfg.maxFrameLen := nrep_mono accepted
      _ ≤ s.cfg.seqMax := of_decide_eq_true ready
  exact ⟨positive, in_domain, seq_fits ok in_domain⟩

end Sys2Proof.Machine
end

section
/-! PROOFS. The report formats as inputs, and which octets of a report count (spec/30_encoding.md R72 to R74, R79,
spec/44_reassembler.md R187 to R195). -/

namespace Sys2Proof.Machine

open Sys2Proof Sys2Proof.Statements

/-! ## The two formats -/

/-- A report of format `RPT.FIRST` runs as `RX.REPORT` with `seq` 1 and its octets (R72, R195). -/
theorem exec_rptFirst (header : HdrImage) (body pad : List Octet) (s : State) :
    exec (.rptFirst header body pad) s = exec (.rxReport 1 (header.octets ++ body ++ pad)) s := rfl

/-- A report of format `RPT.CONT` runs as `RX.REPORT` with its `seq` and its octets (R73, R195). -/
theorem exec_rptCont (seq : Nat) (body pad : List Octet) (s : State) :
    exec (.rptCont seq body pad) s = exec (.rxReport seq (body ++ pad)) s := rfl

/-- Settles O44: the two formats, in turn. -/
theorem reportFormatsRunAsRxReport : Obligations.ReportFormatsRunAsRxReport := by
  unfold Obligations.ReportFormatsRunAsRxReport
  exact fun s header seq body pad => ⟨exec_rptFirst header body pad s, exec_rptCont seq body pad s⟩

/-- Settles O42: the report is one of 64 octets whose first 8 decode to the header's fields, so it completes or opens as
a first report does. -/
theorem firstReportFormatCompletesOrOpens : Obligations.FirstReportFormatCompletesOrOpens := by
  unfold Obligations.FirstReportFormatCompletesOrOpens
  intro s header body pad pid emi ok idle version length pid_found emi_found body_length pad_length
  have full : (header.octets ++ body ++ pad).length = 64 := by simp [body_length, pad_length]
  have header_part : (header.octets ++ body ++ pad).take 8 = header.octets := by
    rw [List.append_assoc, List.take_left' header.length_octets]
  have after_header : (header.octets ++ body ++ pad).drop 8 = body ++ pad := by
    rw [List.append_assoc, List.drop_left' header.length_octets]
  have answer := headerImageGivesItsHeader s header pid emi ok version length pid_found emi_found
  rw [exec_hdr, ← hdrDec_octets, ← exec_hdrDec, ← header_part] at answer
  obtain ⟨completes, opens⟩ := firstReportCompletesOrOpens s _ _ ok idle full answer
  rw [after_header] at completes opens
  refine ⟨fun whole => ?completes, fun longer => ?opens⟩
  case completes =>
    have within_body : header.bodyLength.toNat ≤ body.length := whole.trans_eq body_length.symm
    rw [exec_rptFirst, completes whole, List.take_append_of_le_length within_body]
  case opens => rw [exec_rptFirst, opens longer, List.take_left' body_length]

/-- Settles O43: the report is one of 64 octets whose first 61 are the body image, so it completes or goes on as the
awaited report does. -/
theorem continuationFormatCompletesOrGoesOn : Obligations.ContinuationFormatCompletesOrGoesOn := by
  unfold Obligations.ContinuationFormatCompletesOrGoesOn
  intro s t body pad remaining ok collecting inv body_length pad_length in_domain remaining_eq
  have full : (body ++ pad).length = 64 := by rw [List.length_append, body_length, pad_length]
  obtain ⟨completes, goes_on⟩ :=
    awaitedReportCompletesOrGoesOn s t (body ++ pad) remaining ok collecting inv full in_domain remaining_eq
  refine ⟨fun last => ?completes, fun more => ?goes_on⟩
  case completes =>
    have within_body : remaining ≤ body.length := last.trans_eq body_length.symm
    rw [exec_rptCont, completes last, List.take_append_of_le_length within_body]
  case goes_on => rw [exec_rptCont, goes_on more, List.take_left' body_length]

/-! ## The side-band -/

/-- Settles O33: the side-band test comes before the reassembler's own. -/
theorem seqWiderThanTheSideBandIsRefused : Obligations.SeqWiderThanTheSideBandIsRefused := by
  unfold Obligations.SeqWiderThanTheSideBandIsRefused
  intro s seq report wide
  have refused : ¬seqFits s.cfg seq = true := by simp [seqFits, wide]
  exact if_neg refused

/-! ## Octets that are never looked at -/

/-- Two reports of 64 octets have the same effect as soon as they have when they pass the first two tests of R183. -/
theorem exec_rxReport_congr_of_admitted {s : State} {seq : Nat} {a b : List Octet} (full_a : a.length = 64)
    (full_b : b.length = 64)
    (same : Admitted s.cfg seq a → Admitted s.cfg seq b → rxReport seq a s = rxReport seq b s) :
    exec (.rxReport seq a) s = exec (.rxReport seq b) s := by
  have same_effect : rxReport seq a s = rxReport seq b s := by
    by_cases outside : seq = 0 ∨ s.cfg.seqMax < seq
    case pos => rw [rxReport_outside_domain full_a outside, rxReport_outside_domain full_b outside]
    case neg =>
      have in_domain : 1 ≤ seq ∧ seq ≤ s.cfg.seqMax := by omega
      exact same ⟨full_a, in_domain⟩ ⟨full_b, in_domain⟩
  simp only [exec, execRxReport, takeReport, same_effect]

/-- Sequences that agree on their first `n` octets agree on any fewer. -/
theorem take_eq_of_le {a b : List Octet} {m n : Nat} (le : m ≤ n) (agree : a.take n = b.take n) :
    a.take m = b.take m := by
  rw [← Nat.min_eq_left le, ← List.take_take, ← List.take_take, agree]

/-- Sequences that agree on their first `off + n` octets agree on the `n` from `off` on. -/
theorem drop_take_eq {a b : List Octet} {off n : Nat} (agree : a.take (off + n) = b.take (off + n)) :
    (a.drop off).take n = (b.drop off).take n := by
  rw [← slice_add, ← slice_add, slice_eq, slice_eq, agree]

/-- Of a first report nothing beyond the header and the body image is looked at (R72, R79). -/
theorem rxIdle_congr_first {s : State} {a b : List Octet} (full_a : a.length = 64) (full_b : b.length = 64)
    (agree : a.take 60 = b.take 60) : rxIdle 1 a s = rxIdle 1 b s := by
  have header_part : memRead a 0 8 = memRead b 0 8 := by
    rw [memRead_zero, memRead_zero, take_eq_of_le (by omega) agree]
  have body_part : memRead a 8 52 = memRead b 8 52 := by
    rw [memRead_eq, memRead_eq, drop_take_eq agree]
  rw [rxIdle_first full_a, rxIdle_first full_b, header_part, body_part]

/-- Of the one report of a short frame nothing beyond the header and the frame is looked at (R79, R200). -/
theorem rxIdle_congr_whole_frame {s : State} {a b : List Octet} {h : HeaderFields} (full_a : a.length = 64)
    (full_b : b.length = 64) (decoded : hdrDec s.cfg (a.take 8) = .ok h) (whole : h.bodyLength.toNat ≤ 52)
    (agree : a.take (8 + h.bodyLength.toNat) = b.take (8 + h.bodyLength.toNat)) : rxIdle 1 a s = rxIdle 1 b s := by
  have header_part : a.take 8 = b.take 8 := take_eq_of_le (Nat.le_add_right _ _) agree
  rw [rxIdle_first_of_le full_a decoded whole, rxIdle_first_of_le full_b (header_part ▸ decoded) whole,
    drop_take_eq agree]

/-- Of a continuation report nothing beyond the body image is looked at (R73, R79). -/
theorem rxCollecting_congr {s : State} {t : Transfer} {seq : Nat} {a b : List Octet}
    (agree : a.take 61 = b.take 61) : rxCollecting t seq a s = rxCollecting t seq b s := by
  rw [rxCollecting, rxCollecting, memRead_zero, memRead_zero, agree]

/-- Of the awaited report nothing beyond the octets still missing is looked at (R79, R189). -/
theorem rxCollecting_congr_missing {s : State} {t : Transfer} {a b : List Octet} (inv : t.Inv s.cfg)
    (full_a : a.length = 64) (full_b : b.length = 64)
    (agree : a.take (t.bodyLength.toNat - t.count) = b.take (t.bodyLength.toNat - t.count)) :
    rxCollecting t t.nextSeq a s = rxCollecting t t.nextSeq b s := by
  rcases Nat.lt_or_ge 61 (t.bodyLength.toNat - t.count) with more | last
  · exact rxCollecting_congr (take_eq_of_le more.le agree)
  · rw [rxCollecting_next_of_le inv full_a last, rxCollecting_next_of_le inv full_b last, agree]

/-- Settles O53: the two reports differ only in octets that the branch they run never reads. A first report never goes
on with a transfer, for `rx_next_seq` is at least 2 (R30), and a continuation never opens one. -/
theorem padOctetsAreIgnored : Obligations.PadOctetsAreIgnored := by
  unfold Obligations.PadOctetsAreIgnored
  intro s seq a b inv full_a full_b
  refine ⟨fun first agree => ?first, fun not_first agree => ?continuation,
    fun h idle first answer whole agree => ?whole, fun t collecting awaited agree => ?awaited⟩
  all_goals
    refine exec_rxReport_congr_of_admitted full_a full_b fun admitted_a admitted_b => ?_
  case first =>
    subst first
    cases context : s.rx with
    | idle =>
      rw [rxReport_idle admitted_a context, rxReport_idle admitted_b context]
      exact rxIdle_congr_first full_a full_b agree
    | collecting t =>
      have started := (inv.context t context).nextSeq_ge
      have not_awaited : 1 ≠ t.nextSeq := by omega
      rw [rxReport_collecting admitted_a context, rxReport_collecting admitted_b context,
        rxCollecting_of_ne not_awaited, rxCollecting_of_ne not_awaited]
  case continuation =>
    cases context : s.rx with
    | idle =>
      rw [rxReport_idle admitted_a context, rxReport_idle admitted_b context, rxIdle_of_ne_one not_first,
        rxIdle_of_ne_one not_first]
    | collecting t =>
      rw [rxReport_collecting admitted_a context, rxReport_collecting admitted_b context]
      exact rxCollecting_congr agree
  case whole =>
    subst first
    rw [rxReport_idle admitted_a idle, rxReport_idle admitted_b idle]
    exact rxIdle_congr_whole_frame full_a full_b (exec_hdrDec_eq_valid_iff.1 answer) whole agree
  case awaited =>
    subst awaited
    rw [rxReport_collecting admitted_a collecting, rxReport_collecting admitted_b collecting]
    exact rxCollecting_congr_missing (inv.context t collecting) full_a full_b agree

end Sys2Proof.Machine
end

section
/-! PROOFS. What the pure operations answer, and that every well-formed operation answers (spec/20_memory.md R56,
spec/60_exceptions.md R222, R229, R276). -/

namespace Sys2Proof.Machine

open Sys2Proof Sys2Proof.Statements

/-! ## The pure operations -/

/-- What a pure operation answers, by the parameters alone (R56, R166); nothing where it is refused or where the
instruction is not pure. -/
def pureAnswer (c : Config) : Instr → Option Response
  | .pidDec code => some (.protocolId (catalogDecode c.pidTable code))
  | .emiDec code => some (.emiId (catalogDecode c.emiTable code))
  | .mcDec code => some (.messageCode (catalogDecode c.mcTable code))
  | .cap seq => some (.capacity (cap c seq))
  | .hdrEnc bodyLength pid emi =>
    if membersOk c pid emi then some (.header (hdrEnc bodyLength pid emi) none) else none
  | .hdrDec bytes => some (headerResponse (hdrDec c bytes))
  | .hdrTob hdr => (hdrTob c hdr).map .octets
  | .bodyEnc payload isPartial => some (bodyResponse (bodyEnc payload isPartial))
  | .bodyDec bytes => some (bodyResponse (bodyDec bytes))
  | .bodyTob body isPartial => some (.octets (bodyTob body isPartial))
  | .bodyMc body => some (.emiMessageCode (bodyMc body))
  | .bodyLen body => some (.length (bodyLen body))
  | .txFrag pid emi frame => if membersOk c pid emi then txFrag c pid emi frame else none
  | .hdr image => some (headerResponse (hdrCheck c image))
  | .rxReport _ _ | .rxAbort | .reset | .reserved0 | .rptFirst _ _ _ | .rptCont _ _ _ => none

/-- A pure operation answers by the parameters alone and writes nothing but the response, or is refused. -/
theorem exec_of_isPure {i : Instr} (pure : isPure i = true) (s : State) :
    exec i s = (pureAnswer s.cfg i).elim (.refused .notAMember) fun r => .next (answered s r) := by
  cases i with
  | hdrEnc bodyLength pid emi =>
    simp only [exec, execHdrEnc, pureAnswer]
    split <;> rfl
  | hdrTob hdr =>
    simp only [exec, execHdrTob, pureAnswer]
    cases hdrTob s.cfg hdr <;> rfl
  | txFrag pid emi frame =>
    simp only [exec, execTxFrag, pureAnswer]
    split
    · cases txFrag s.cfg pid emi frame <;> rfl
    · rfl
  | hdr image => exact exec_hdr image s
  | rxReport | rxAbort | reset | reserved0 | rptFirst | rptCont => cases pure
  | _ => rfl

/-- A pure operation answers a next state exactly when it has an answer. -/
theorem exec_eq_next_iff_of_isPure {i : Instr} (pure : isPure i = true) {s t : State} :
    exec i s = .next t ↔ ∃ r, pureAnswer s.cfg i = some r ∧ t = answered s r := by
  rw [exec_of_isPure pure]
  cases pureAnswer s.cfg i <;> simp [eq_comm]

/-! ## Every well-formed operation answers -/

/-- What hands a report to the reassembler is taken from the side-band and the report input (R195). -/
theorem exec_of_reportIn {i : Instr} {seq : Nat} {report : List Octet} (input : reportIn i = some (seq, report))
    (s : State) : exec i s = takeReport seq report s := by
  cases i with
  | rxReport | rptFirst | rptCont =>
    cases input
    rfl
  | _ => cases input

/-- The fragmenter has an answer for every frame with names of the tables: its reports or the failure (R161, R162). -/
theorem exists_txFrag_of_members {c : Config} {pid : ProtocolId} {emi : EmiId}
    (pid_member : Config.isMember c.pidTable pid) (emi_member : Config.isMember c.emiTable emi) (frame : List Octet) :
    ∃ r, txFrag c pid emi frame = some r := by
  by_cases accepted : frame.length ≤ c.maxFrameLen
  case pos =>
    obtain ⟨header, serialized, -⟩ := hdrTob_of_members
      (f := ⟨protocolVersion, headerLength, BitVec.ofNat 16 frame.length, pid, emi, mfrStandard⟩) pid_member emi_member
    exact ⟨_, txFrag_of_length_le accepted serialized⟩
  case neg => exact ⟨_, txFrag_of_maxFrameLen_lt pid emi (Nat.lt_of_not_le accepted)⟩

/-- A header that a codec can have made has octets, none if it is invalid (R123, R125). -/
theorem exists_hdrTob_of_wf {c : Config} {hdr : Header} (wf : hdr.wf c = true) : ∃ b, hdrTob c hdr = some b := by
  cases hdr with
  | invalid => exact ⟨[], rfl⟩
  | valid f =>
    simp only [Header.wf, Bool.and_eq_true, decide_eq_true_eq] at wf
    obtain ⟨⟨-, pid_member⟩, emi_member⟩ := wf
    obtain ⟨b, serialized, -⟩ := hdrTob_of_members pid_member emi_member
    exact ⟨b, serialized⟩

/-- An instruction whose operands are of its types is performed in every state: names are members, and the side-band
carries the `seq` (R276). -/
theorem exists_exec_of_wf {i : Instr} {s : State} (ok : s.cfg.Ok) (wf : i.wf s.cfg = true) :
    ∃ t, exec i s = .next t := by
  cases i with
  | hdrEnc bodyLength pid emi =>
    simp only [Instr.wf, Bool.and_eq_true, decide_eq_true_eq] at wf
    exact ⟨_, exec_hdrEnc_of_members bodyLength wf.1 wf.2⟩
  | hdrTob hdr =>
    obtain ⟨b, serialized⟩ := exists_hdrTob_of_wf wf
    exact ⟨_, exec_hdrTob_of_some serialized⟩
  | txFrag pid emi frame =>
    simp only [Instr.wf, Bool.and_eq_true, decide_eq_true_eq] at wf
    obtain ⟨r, fragmented⟩ := exists_txFrag_of_members wf.1 wf.2 frame
    exact ⟨_, exec_txFrag_of_members wf.1 wf.2 fragmented⟩
  | rxReport seq report => exact ⟨_, exec_rxReport_of_fits (of_decide_eq_true wf)⟩
  | rxAbort =>
    cases context : s.rx with
    | idle => exact ⟨_, exec_rxAbort_idle context⟩
    | collecting t => exact ⟨_, exec_rxAbort_collecting context⟩
  | reserved0 => cases wf
  | rptFirst header body pad => exact ⟨_, takeReport_of_fits (seq_fits ok ok.seqMax_pos)⟩
  | rptCont seq body pad =>
    simp only [Instr.wf, Bool.and_eq_true, decide_eq_true_eq] at wf
    obtain ⟨⟨⟨-, in_domain⟩, -⟩, -⟩ := wf
    exact ⟨_, takeReport_of_fits (seq_fits ok in_domain)⟩
  | _ => exact ⟨_, rfl⟩

/-- `RX.REPORT` always has an outcome (R181). -/
theorem exists_response_rxReport (seq : Nat) (report : List Octet) (s : State) :
    ∃ o, (rxReport seq report s).response = some (.rx o) := by
  obtain ⟨r, -, e⟩ | ⟨-, -, -, _, -, -, e⟩ | ⟨-, -, -, _, -, -, e⟩ | ⟨_, -, -, -, -, e⟩ | ⟨_, -, -, -, -, e⟩ :=
    rxReport_cases seq report s <;> exact ⟨_, by rw [e]; rfl⟩

/-- An operation that answers has a response unless it is `RESET` (R260). -/
theorem exists_response_of_exec {i : Instr} {s t : State} (answers : exec i s = .next t) (not_reset : i ≠ .reset) :
    ∃ a, t.response = some a := by
  obtain ⟨-, r, -, rfl⟩ | ⟨seq, report, -, -, rfl⟩ | ⟨-, tr, -, rfl⟩ | ⟨-, -, rfl⟩ | ⟨reset, -⟩ := exec_cases answers
  · exact ⟨r, rfl⟩
  · exact (exists_response_rxReport seq report s).imp' _ fun _ => id
  · exact ⟨_, rfl⟩
  · exact ⟨_, rfl⟩
  · exact absurd reset not_reset

/-- Settles O8: well-formed operands keep an operation clear of every refusal, and what answers has a response. -/
theorem everyWellFormedOperationAnswers : Obligations.EveryWellFormedOperationAnswers := by
  unfold Obligations.EveryWellFormedOperationAnswers
  intro i s ok wf
  obtain ⟨t, answers⟩ := exists_exec_of_wf ok wf
  exact ⟨t, answers, fun not_reset => Option.isSome_iff_exists.2 (exists_response_of_exec answers not_reset)⟩

/-- An instruction that hands in a report is not pure. -/
theorem isPure_of_reportIn {i : Instr} {p : Nat × List Octet} (input : reportIn i = some p) : isPure i = false := by
  cases i with
  | rxReport | rptFirst | rptCont => rfl
  | _ => cases input

/-- Settles O49: of all that an operation can do, a pure one only responds, and with no receive outcome. -/
theorem pureOperationsLeaveTheEngineAlone : Obligations.PureOperationsLeaveTheEngineAlone := by
  unfold Obligations.PureOperationsLeaveTheEngineAlone
  intro i s t pure answers
  obtain ⟨-, r, no_outcome, rfl⟩ | ⟨_, _, input, -⟩ | ⟨rfl, -⟩ | ⟨rfl, -⟩ | ⟨rfl, -⟩ := exec_cases answers
  case inl => exact ⟨rfl, rfl, fun o same => no_outcome o (Option.some.inj same)⟩
  case inr.inl => cases pure.symm.trans (isPure_of_reportIn input)
  all_goals cases pure

/-! ## Which failures an operation shows -/

/-- The answer to a header decode shows a record exactly when the decode fails with it. -/
@[simp] theorem failureOf_headerResponse_eq_some_iff {x : Except FailRecord HeaderFields} {r : FailRecord} :
    failureOf (headerResponse x) = some r ↔ x = .error r := by
  cases x <;> simp [headerResponse, failureOf]

/-- The answer of the body codec shows a record exactly when the codec fails with it. -/
@[simp] theorem failureOf_bodyResponse_eq_some_iff {x : Except FailRecord BodyFields} {r : FailRecord} :
    failureOf (bodyResponse x) = some r ↔ x = .error r := by
  cases x <;> simp [bodyResponse, failureOf]

/-- A header decode fails with the reasons 1 to 4 only (R222). -/
theorem reasonCode_bounds_of_hdrDec_error {c : Config} {b : List Octet} {r : FailRecord}
    (failed : hdrDec c b = .error r) :
    1 ≤ (reasonCode r.reason).toNat ∧ (reasonCode r.reason).toNat ≤ 4 := by
  obtain ⟨reason | reason | reason | reason, -⟩ := hdrDec_error failed <;> rw [reason] <;> decide

/-- A report fails with the reasons 1 to 6 only (R222). -/
theorem RxFailure.reasonCode_bounds {seq : Nat} {r : FailRecord} (failure : RxFailure seq r) :
    1 ≤ (reasonCode r.reason).toNat ∧ (reasonCode r.reason).toNat ≤ 6 := by
  obtain ⟨-, receive_side, some_reason, no_abort, -⟩ := failure
  cases reason : r.reason with
  | none => exact absurd reason some_reason
  | abortedByCaller => exact absurd reason no_abort
  | frameTooLarge | capacityExceeded => simp [reason, Reason.receiveSide] at receive_side
  | _ => decide

/-- `BODY.ENC` fails with `CapacityExceeded` only (R141). -/
theorem reason_of_bodyEnc_error {payload : List Octet} {k : Bool} {r : FailRecord}
    (failed : bodyEnc payload k = .error r) : r.reason = .capacityExceeded := by
  unfold bodyEnc at failed
  split at failed <;> cases failed
  rfl

/-- `BODY.DEC` fails with `MalformedLength` only (R142). -/
theorem reason_of_bodyDec_error {bytes : List Octet} {r : FailRecord} (failed : bodyDec bytes = .error r) :
    r.reason = .malformedLength := by
  unfold bodyDec at failed
  repeat' split at failed
  all_goals cases failed
  rfl

/-- `TX.FRAG` shows `FrameTooLarge` only (R162, R165). -/
theorem reason_of_txFrag {c : Config} {pid : ProtocolId} {emi : EmiId} {frame : List Octet} {a : Response}
    {r : FailRecord} (fragmented : txFrag c pid emi frame = some a) (failed : failureOf a = some r) :
    r.reason = .frameTooLarge := by
  unfold txFrag at fragmented
  repeat' split at fragmented
  all_goals cases fragmented
  all_goals cases failed
  rfl

/-- The failures that a pure operation can show (R222). -/
theorem reason_of_pureAnswer {c : Config} {i : Instr} {a : Response} {r : FailRecord}
    (answer : pureAnswer c i = some a) (failed : failureOf a = some r) :
    (((∃ b, i = .hdrDec b) ∨ (∃ h, i = .hdr h)) ∧ 1 ≤ (reasonCode r.reason).toNat ∧
      (reasonCode r.reason).toNat ≤ 4) ∨
    ((∃ b, i = .bodyDec b) ∧ r.reason = .malformedLength) ∨
    ((∃ p k, i = .bodyEnc p k) ∧ r.reason = .capacityExceeded) ∨
    ((∃ pid emi f, i = .txFrag pid emi f) ∧ r.reason = .frameTooLarge) := by
  cases i with
  | hdrDec b =>
    cases answer
    exact .inl ⟨.inl ⟨b, rfl⟩, reasonCode_bounds_of_hdrDec_error (failureOf_headerResponse_eq_some_iff.1 failed)⟩
  | hdr image =>
    cases answer
    rw [← hdrDec_octets] at failed
    exact .inl ⟨.inr ⟨image, rfl⟩, reasonCode_bounds_of_hdrDec_error (failureOf_headerResponse_eq_some_iff.1 failed)⟩
  | bodyDec b =>
    cases answer
    exact .inr (.inl ⟨⟨b, rfl⟩, reason_of_bodyDec_error (failureOf_bodyResponse_eq_some_iff.1 failed)⟩)
  | bodyEnc p k =>
    cases answer
    exact .inr (.inr (.inl ⟨⟨p, k, rfl⟩, reason_of_bodyEnc_error (failureOf_bodyResponse_eq_some_iff.1 failed)⟩))
  | txFrag pid emi frame =>
    obtain ⟨-, fragmented⟩ := Option.ite_none_right_eq_some.1 answer
    exact .inr (.inr (.inr ⟨⟨pid, emi, frame, rfl⟩, reason_of_txFrag fragmented failed⟩))
  | hdrEnc bodyLength pid emi =>
    obtain ⟨-, encoded⟩ := Option.ite_none_right_eq_some.1 answer
    cases encoded
    cases failed
  | hdrTob hdr =>
    obtain ⟨b, -, rfl⟩ := Option.map_eq_some_iff.1 answer
    cases failed
  | rxReport | rxAbort | reset | reserved0 | rptFirst | rptCont => cases answer
  | _ =>
    cases answer
    cases failed

/-- `RX.REPORT` shows a record only as the record of its failure. -/
theorem rxFailure_of_failureOf {seq : Nat} {report : List Octet} {s : State} {a : Response} {r : FailRecord}
    (answer : (rxReport seq report s).response = some a) (failed : failureOf a = some r) : RxFailure seq r := by
  obtain ⟨o, outcome⟩ := exists_response_rxReport seq report s
  obtain rfl : Response.rx o = a := Option.some.inj (outcome.symm.trans answer)
  cases o with
  | noFrame => cases failed
  | frame => cases failed
  | fail r' =>
    cases failed
    exact (rxReport_eq_failEntry_of_response answer).1

/-- Settles O46: one case for each thing an operation can do; `RESET` and an abort in `IDLE` show no record. -/
theorem eachOperationFailsOnlyWithItsReasons : Obligations.EachOperationFailsOnlyWithItsReasons := by
  unfold Obligations.EachOperationFailsOnlyWithItsReasons
  intro i s t a r answers answer failed
  obtain ⟨pure, -⟩ | ⟨seq, report, input, -, rfl⟩ | ⟨abort, tr, -, rfl⟩ | ⟨-, -, rfl⟩ | ⟨-, rfl⟩ := exec_cases answers
  · obtain ⟨a', pure_answer, rfl⟩ := (exec_eq_next_iff_of_isPure pure).1 answers
    cases answer
    obtain header | body | payload | frame := reason_of_pureAnswer pure_answer failed
    · exact .inl header
    · exact .inr (.inl body)
    · exact .inr (.inr (.inl payload))
    · exact .inr (.inr (.inr (.inl frame)))
  · exact .inr (.inr (.inr (.inr (.inl ⟨⟨_, input⟩, (rxFailure_of_failureOf answer failed).reasonCode_bounds⟩))))
  · cases answer
    cases failed
    exact .inr (.inr (.inr (.inr (.inr ⟨abort, rfl⟩))))
  · cases answer
    cases failed
  · cases answer

end Sys2Proof.Machine
end

section
/-! PROOFS. Transfers and frames: how one is opened, delivered, never completed or ended (spec/44_reassembler.md R182 to
R193, spec/60_exceptions.md R232). -/

namespace Sys2Proof.Machine

open Sys2Proof Sys2Proof.Statements

/-! ## The status registers -/

/-- `RX.REPORT` writes the status registers and the counter only when it fails (R28, R29). -/
theorem rxReport_status_of_no_failure {seq : Nat} {report : List Octet} {s : State}
    (no_failure : ∀ r, (rxReport seq report s).response ≠ some (.rx (.fail r))) :
    (rxReport seq report s).status = s.status ∧ (rxReport seq report s).rxFailCount = s.rxFailCount := by
  obtain ⟨r, -, e⟩ | ⟨-, -, -, _, -, -, e⟩ | ⟨-, -, -, _, -, -, e⟩ | ⟨_, -, -, -, -, e⟩ | ⟨_, -, -, -, -, e⟩ :=
    rxReport_cases seq report s
  case inl => exact absurd (by rw [e]; rfl) (no_failure r)
  all_goals rw [e]; exact ⟨rfl, rfl⟩

/-- Settles O47: without a failure and without a reset only responses and the receive context are written. -/
theorem onlyFailuresAndResetWriteTheStatus : Obligations.OnlyFailuresAndResetWriteTheStatus := by
  unfold Obligations.OnlyFailuresAndResetWriteTheStatus
  intro i s t answers not_reset no_failure
  obtain ⟨-, r, -, rfl⟩ | ⟨seq, report, -, -, rfl⟩ | ⟨-, tr, -, rfl⟩ | ⟨-, -, rfl⟩ | ⟨reset, -⟩ := exec_cases answers
  · exact ⟨rfl, rfl⟩
  · exact rxReport_status_of_no_failure no_failure
  · exact absurd rfl (no_failure _)
  · exact ⟨rfl, rfl⟩
  · exact absurd reset not_reset

/-! ## How a transfer comes to be open after a report -/

/-- A report leaves a transfer open only by opening it in `IDLE` or by going on with it, and takes no failure. -/
theorem rxReport_open_cases {seq : Nat} {report : List Octet} {s : State} {tr : Transfer}
    (in_flight : (rxReport seq report s).rx = .collecting tr) :
    Admitted s.cfg seq report ∧ tr.nextSeq = seq + 1 ∧
      ((s.rx = .idle ∧ seq = 1 ∧ ∃ h, hdrDec s.cfg (report.take 8) = .ok h ∧ 52 < h.bodyLength.toNat ∧
        tr.bodyLength = h.bodyLength) ∨
      ∃ t, s.rx = .collecting t ∧ tr.bodyLength = t.bodyLength) := by
  obtain ⟨r, -, fails⟩ | ⟨-, -, -, _, -, -, completes⟩ | ⟨idle, rfl, admitted, h, decoded, longer, opens⟩ |
    ⟨_, -, -, -, -, completes⟩ | ⟨t, collecting, rfl, admitted, -, goes_on⟩ := rxReport_cases seq report s
  · rw [fails] at in_flight
    cases in_flight
  · rw [completes] at in_flight
    cases in_flight
  · rw [opens] at in_flight
    cases in_flight
    exact ⟨admitted, rfl, .inl ⟨idle, rfl, h, memRead_zero report 8 ▸ decoded, longer, rfl⟩⟩
  · rw [completes] at in_flight
    cases in_flight
  · rw [goes_on] at in_flight
    cases in_flight
    exact ⟨admitted, rfl, .inr ⟨t, collecting, rfl⟩⟩

/-- Settles O48: only a report leaves a transfer open where there was none, and then it is a first report with a valid
header. -/
theorem onlyAFirstReportOpensATransfer : Obligations.OnlyAFirstReportOpensATransfer := by
  unfold Obligations.OnlyAFirstReportOpensATransfer
  intro i s t tr answers idle in_flight
  obtain ⟨-, r, -, rfl⟩ | ⟨seq, report, input, -, rfl⟩ | ⟨-, _, -, rfl⟩ | ⟨-, -, rfl⟩ | ⟨-, rfl⟩ := exec_cases answers
  case inr.inl =>
    obtain ⟨⟨full, -⟩, -, ⟨-, rfl, h, decoded, longer, body_length⟩ | ⟨_, collecting, -⟩⟩ :=
      rxReport_open_cases in_flight
    · exact ⟨report, h, input, full, exec_hdrDec_eq_valid_iff.2 decoded, longer, body_length⟩
    · cases idle.symm.trans collecting
  case inl => cases idle.symm.trans in_flight
  all_goals cases in_flight

/-- Settles O52: the open transfer awaits the number after the report's own, so the same report is a repeat. -/
theorem repeatedReportFailsTheTransfer : Obligations.RepeatedReportFailsTheTransfer := by
  unfold Obligations.RepeatedReportFailsTheTransfer
  intro s t tr seq report answers in_flight
  obtain ⟨fits, rfl⟩ := takeReport_next answers
  obtain ⟨⟨full, in_domain⟩, next_seq, -⟩ := rxReport_open_cases in_flight
  have same_cfg := (rxReport_frame seq report s).1
  have fits_again : seq < 2 ^ (rxReport seq report s).cfg.seqW := by rwa [same_cfg]
  have admitted_again : Admitted (rxReport seq report s).cfg seq report := by
    rw [same_cfg]
    exact ⟨full, in_domain⟩
  have not_awaited : seq ≠ tr.nextSeq := by omega
  rw [exec_rxReport_of_fits fits_again, rxReport_collecting admitted_again in_flight, rxCollecting_of_ne not_awaited,
    failEntry_eq_afterFailure, next_seq]
  rfl

/-! ## Delivered frames -/

/-- The octets accumulated with a completing report's share are those of the whole frame (R189, R232). -/
theorem length_appendSegment_take {c : Config} {t : Transfer} {payload : List Octet} (inv : t.Inv c)
    (full : payload.length = 61) (complete : t.count + takeCount t = t.bodyLength.toNat) :
    ((appendSegment t payload).buf.take t.bodyLength.toNat).length = t.bodyLength.toNat := by
  have share : takeCount t ≤ payload.length := full.symm ▸ Nat.min_le_left 61 _
  rw [buf_appendSegment inv.buf_length, List.length_take, List.length_append, inv.buf_length, List.length_take,
    Nat.min_eq_left share, complete, Nat.min_self]

/-- A report that delivers a frame leaves `IDLE`, and the frame has the length and the fields of the transfer in flight
or of its own header (R187, R193, R232). -/
theorem delivered_of_rxReport {seq : Nat} {report : List Octet} {s : State} {f : List Octet} {pid : ProtocolId}
    {emi : EmiId} {mfr : U16} (inv : EngineInv s)
    (delivered : (rxReport seq report s).response = some (.rx (.frame f pid emi mfr))) :
    (rxReport seq report s).rx = .idle ∧
    ((∃ tr, s.rx = .collecting tr ∧ f.length = tr.bodyLength.toNat ∧ pid = tr.pid ∧ emi = tr.emi ∧ mfr = tr.mfr) ∨
      (s.rx = .idle ∧ seq = 1 ∧ ∃ h, hdrDec s.cfg (report.take 8) = .ok h ∧
        f.length = h.bodyLength.toNat ∧ pid = h.protocolId ∧ emi = h.emiId ∧ mfr = h.manufacturerCode)) := by
  obtain ⟨r, -, fails⟩ | ⟨idle, rfl, ⟨full, -⟩, h, decoded, whole, completes⟩ | ⟨-, -, -, _, -, -, opens⟩ |
    ⟨t, collecting, -, ⟨full, -⟩, complete, completes⟩ | ⟨_, -, -, -, -, goes_on⟩ := rxReport_cases seq report s
  · rw [fails] at delivered
    cases delivered
  · rw [completes] at delivered ⊢
    cases delivered
    have frame_length : ((memRead report 8 52).take h.bodyLength.toNat).length = h.bodyLength.toNat := by
      rw [List.length_take, length_bodyImage_first full, Nat.min_eq_left whole]
    exact ⟨rfl, .inr ⟨idle, rfl, h, memRead_zero report 8 ▸ decoded, frame_length, rfl, rfl, rfl⟩⟩
  · rw [opens] at delivered
    cases delivered
  · rw [completes] at delivered ⊢
    cases delivered
    exact ⟨rfl, .inl ⟨t, collecting, length_appendSegment_take (inv.context t collecting)
      (length_bodyImage_continuation full) complete, rfl, rfl, rfl⟩⟩
  · rw [goes_on] at delivered
    cases delivered

/-- Settles O50: only a report delivers a frame. -/
theorem deliveredFrameHasItsHeadersLength : Obligations.DeliveredFrameHasItsHeadersLength := by
  unfold Obligations.DeliveredFrameHasItsHeadersLength
  intro i s t f pid emi mfr inv answers delivered
  obtain ⟨-, r, no_outcome, rfl⟩ | ⟨seq, report, input, -, rfl⟩ | ⟨-, _, -, rfl⟩ | ⟨-, -, rfl⟩ | ⟨-, rfl⟩ :=
    exec_cases answers
  case inl => exact absurd (Option.some.inj delivered) (no_outcome _)
  case inr.inl =>
    obtain ⟨idle_after, in_flight | ⟨idle, rfl, h, decoded, fields⟩⟩ := delivered_of_rxReport inv delivered
    · exact ⟨idle_after, .inl in_flight⟩
    · exact ⟨idle_after, .inr ⟨idle, report, h, input, exec_hdrDec_eq_valid_iff.2 decoded, fields⟩⟩
  all_goals cases delivered

/-! ## Transfers over `RX_BUF_LEN` -/

/-- All that the reports up to one of the domain can have brought fits `RX_BUF_LEN` (R9, R190). -/
theorem count_add_takeCount_le {c : Config} {t : Transfer} (inv : t.Inv c) (in_domain : t.nextSeq ≤ c.seqMax) :
    t.count + takeCount t ≤ c.rxBufLen := by
  have share : takeCount t ≤ 61 := Nat.min_le_left 61 _
  have started := inv.nextSeq_ge
  have count_eq := inv.count_eq
  simp only [Config.rxBufLen, capFirst, capCont] at *
  omega

/-- Settles O51: a report that completed the transfer would have brought more than fits, and one that goes on with it is
of the domain. -/
theorem oversizedTransferNeverCompletes : Obligations.OversizedTransferNeverCompletes := by
  unfold Obligations.OversizedTransferNeverCompletes
  intro s u tr seq report inv collecting oversized answers
  obtain ⟨-, rfl⟩ := takeReport_next answers
  obtain ⟨r, -, fails⟩ | ⟨idle, -⟩ | ⟨idle, -⟩ | ⟨t, in_flight, rfl, ⟨-, -, in_domain⟩, complete, -⟩ |
    ⟨t, in_flight, rfl, ⟨-, -, in_domain⟩, -, goes_on⟩ := rxReport_cases seq report s
  · exact .inl ⟨r, by rw [fails]; exact ⟨rfl, rfl⟩⟩
  · cases idle.symm.trans collecting
  · cases idle.symm.trans collecting
  · cases collecting.symm.trans in_flight
    have brought := count_add_takeCount_le (inv.context tr collecting) in_domain
    omega
  · cases collecting.symm.trans in_flight
    have not_past_end : tr.nextSeq ≠ s.cfg.seqMax + 1 := by omega
    rw [goes_on]
    exact .inr ⟨rfl, not_past_end, _, rfl, rfl⟩

end Sys2Proof.Machine
end

section
/-! PROOFS. What operations do not depend on, and steps that commute (spec/20_memory.md R61, R63, spec/10_state.md R28,
R33, spec/60_exceptions.md R231, R235). -/

namespace Sys2Proof.Machine

open Sys2Proof Sys2Proof.Statements

/-- Settles O55: a pure operation answers by the parameters alone, a report and an abort by the receive context
besides. -/
theorem statusInfluencesNoOperation : Obligations.StatusInfluencesNoOperation := by
  unfold Obligations.StatusInfluencesNoOperation
  intro i s t s' cfg_eq rx_eq answers
  obtain ⟨pure, -⟩ | ⟨seq, report, input, fits, rfl⟩ | ⟨rfl, tr, collecting, rfl⟩ | ⟨rfl, idle, rfl⟩ | ⟨rfl, rfl⟩ :=
    exec_cases answers
  · obtain ⟨r, answer, rfl⟩ := (exec_eq_next_iff_of_isPure pure).1 answers
    rw [cfg_eq] at answer
    exact ⟨answered t r, (exec_eq_next_iff_of_isPure pure).2 ⟨r, answer, rfl⟩, rfl, rx_eq.symm⟩
  · rw [cfg_eq] at fits
    obtain ⟨same_response, same_context, -⟩ := rxReport_congr (seq := seq) (report := report) cfg_eq rx_eq
    exact ⟨rxReport seq report t, (exec_of_reportIn input t).trans (takeReport_of_fits fits), same_response.symm,
      same_context.symm⟩
  · rw [rx_eq] at collecting
    exact ⟨_, exec_rxAbort_collecting collecting, rfl, rfl⟩
  · rw [rx_eq] at idle
    exact ⟨_, exec_rxAbort_idle idle, rfl, idle⟩
  · exact ⟨_, exec_reset t, rfl, rfl⟩

/-- Settles O54: `TX.FRAG` writes nothing that `RX.REPORT` reads, and reads nothing that `RX.REPORT` writes. -/
theorem transmitAndReceiveHalvesAreIndependent : Obligations.TransmitAndReceiveHalvesAreIndependent := by
  unfold Obligations.TransmitAndReceiveHalvesAreIndependent
  intro s s1 u1 pid emi frame seq report transmitted received
  obtain ⟨r, answer, rfl⟩ := (exec_eq_next_iff_of_isPure rfl).1 transmitted
  obtain ⟨fits, rfl⟩ := takeReport_next received
  have same_cfg := (rxReport_frame seq report s).1
  have answer_after : pureAnswer (rxReport seq report s).cfg (.txFrag pid emi frame) = some r := by rwa [same_cfg]
  have fits_after : seq < 2 ^ (answered s r).cfg.seqW := fits
  obtain ⟨same_response, same_context, same_registers⟩ :=
    rxReport_congr (seq := seq) (report := report) (s := answered s r) (t := s) rfl rfl
  obtain ⟨same_count, same_status⟩ := same_registers rfl rfl
  refine ⟨_, _, exec_rxReport_of_fits fits_after, (exec_eq_next_iff_of_isPure rfl).2 ⟨r, answer_after, rfl⟩,
    same_response, rfl, ?_, same_context.symm, same_status.symm, same_count.symm⟩
  calc (rxReport seq report s).cfg = s.cfg := same_cfg
    _ = (rxReport seq report (answered s r)).cfg := (rxReport_frame seq report (answered s r)).1.symm

/-! ## Several engines -/

/-- Where there is no engine `k`, its step changes nothing (log 14). -/
theorem stepAt_of_none {k : Nat} {engines : List State} (absent : engines[k]? = none) :
    stepAt k engines = .next engines := by
  simp only [stepAt, absent]

/-- The step of engine `k` puts its next state in its place (R235). -/
theorem stepAt_of_some {k : Nat} {engines : List State} {s s' : State} (engine : engines[k]? = some s)
    (steps : step s = .next s') : stepAt k engines = .next (engines.set k s') := by
  simp only [stepAt, engine, steps]

/-- EVERYTHING A STEP OF ONE ENGINE CAN DO to several: nothing where there is no such engine, or one step of it. -/
theorem stepAt_cases {k : Nat} {engines after : List State} (answers : stepAt k engines = .next after) :
    (engines[k]? = none ∧ after = engines) ∨
    ∃ s s', engines[k]? = some s ∧ step s = .next s' ∧ after = engines.set k s' := by
  cases engine : engines[k]? with
  | none =>
    rw [stepAt_of_none engine] at answers
    cases answers
    exact .inl ⟨rfl, rfl⟩
  | some s =>
    simp only [stepAt, engine] at answers
    split at answers
    · rename_i s' steps
      cases answers
      exact .inr ⟨s, s', rfl, steps, rfl⟩
    · cases answers
    · cases answers

/-- A step of engine `k` leaves every other engine as it was (R61). -/
theorem getElem?_stepAt_of_ne {j k : Nat} {engines after : List State} (different : j ≠ k)
    (answers : stepAt k engines = .next after) : after[j]? = engines[j]? := by
  obtain ⟨-, rfl⟩ | ⟨s, s', -, -, rfl⟩ := stepAt_cases answers
  · rfl
  · exact List.getElem?_set_ne different.symm

/-- A step of engine `k` does not depend on any other engine (R61). -/
theorem stepAt_set_of_ne {j k : Nat} {engines after : List State} (different : j ≠ k)
    (answers : stepAt k engines = .next after) (x : State) :
    stepAt k (engines.set j x) = .next (after.set j x) := by
  have same_engine : (engines.set j x)[k]? = engines[k]? := List.getElem?_set_ne different
  obtain ⟨absent, rfl⟩ | ⟨s, s', engine, steps, rfl⟩ := stepAt_cases answers
  · exact stepAt_of_none (same_engine.trans absent)
  · rw [stepAt_of_some (same_engine.trans engine) steps, List.set_comm _ _ different]

/-- Settles O56: engine `j` is the same before and after the step of engine `k`, which does not depend on it. -/
theorem stepsOfDifferentEnginesCommute : Obligations.StepsOfDifferentEnginesCommute := by
  unfold Obligations.StepsOfDifferentEnginesCommute
  intro j k engines ej ek different steps_j steps_k
  have same_engine := getElem?_stepAt_of_ne different steps_k
  obtain ⟨absent, rfl⟩ | ⟨s, s', engine, steps, rfl⟩ := stepAt_cases steps_j
  · exact ⟨ek, steps_k, stepAt_of_none (same_engine.trans absent)⟩
  · exact ⟨ek.set j s', stepAt_set_of_ne different steps_k s', stepAt_of_some (same_engine.trans engine) steps⟩

end Sys2Proof.Machine
end

section
/-! PROOFS. A frame's reports fed back to the engine that made them (spec/43_fragmenter.md section 9). -/

namespace Sys2Proof.Machine

open Sys2Proof Sys2Proof.Statements

/-- The first report of a frame, in `IDLE`: it brings the whole frame, or opens the transfer with its first 52 octets
(R169, R187). -/
theorem exec_first_segment {s : State} {header frame : List Octet} {h : HeaderFields} (ok : s.cfg.Ok)
    (idle : s.rx = .idle) (decoded : hdrDec s.cfg header = .ok h) (length_field : h.bodyLength.toNat = frame.length) :
    exec (.rxReport 1
        (header ++ bodyTob (toBody (bodyEnc (slice frame 0 capFirst) false)) false ++ zeros 4)) s =
      if frame.length ≤ 52 then
        .next (received s .idle (.frame frame h.protocolId h.emiId h.manufacturerCode))
      else .next (received s (.collecting (openTransfer h (frame.take 52))) .noFrame) := by
  obtain ⟨eight, -⟩ := hdrDec_ok decoded
  rw [firstReport_eq, List.append_assoc]
  have full : (header ++ (frame.take 52 ++ zeros (56 - (frame.take 52).length))).length = 64 := by
    simp only [List.length_append, List.length_take, length_zeros, eight]
    omega
  have admitted := admitted_first ok full
  rw [exec_rxReport_of_admitted ok admitted, rxReport_idle admitted idle]
  have header_decoded : hdrDec s.cfg
      ((header ++ (frame.take 52 ++ zeros (56 - (frame.take 52).length))).take 8) = .ok h := by
    rw [List.take_left' eight, decoded]
  by_cases whole : frame.length ≤ 52
  case pos =>
    rw [if_pos whole, rxIdle_first_of_le full header_decoded (length_field.trans_le whole), List.drop_left' eight,
      length_field, List.take_of_length_le whole, List.take_left, rxReturn_eq_received]
  case neg =>
    have longer : 52 < frame.length := Nat.lt_of_not_le whole
    have first_part : (frame.take 52).length = 52 := by
      rw [List.length_take, Nat.min_eq_left longer.le]
    rw [if_neg whole, rxIdle_first_of_gt full header_decoded (longer.trans_eq length_field.symm),
      List.drop_left' eight, List.take_left' first_part, rxReturn_eq_received]

/-- All the reports of a frame, fed in order to an engine in `IDLE`, end in the frame (R169): the first report completes
it or opens the transfer, with which the others go on. -/
theorem runOps_feed_fragReports {s : State} {header frame : List Octet} {h : HeaderFields} (ok : s.cfg.Ok)
    (idle : s.rx = .idle) (decoded : hdrDec s.cfg header = .ok h) (length_field : h.bodyLength.toNat = frame.length)
    (fits : frame.length ≤ s.cfg.rxBufLen) :
    runOps (feed (fragReports header frame)) s = .next
      (List.replicate ((fragReports header frame).length - 1) (.rx .noFrame) ++
          [.rx (.frame frame h.protocolId h.emiId h.manufacturerCode)],
        received s .idle (.frame frame h.protocolId h.emiId h.manufacturerCode)) := by
  have first := exec_first_segment ok idle decoded length_field
  by_cases whole : frame.length ≤ 52
  case pos =>
    rw [if_pos whole] at first
    have no_more : fragLoop frame.length frame capFirst 2 = [] := by
      rw [fragLoop_eq _ _ _ _ (by simp only [capFirst]; omega)]
      have none_left : (frame.length - capFirst + 60) / 61 = 0 := by simp only [capFirst]; omega
      rw [none_left]
      rfl
    rw [fragReports, no_more]
    exact runOps_cons first rfl
  case neg =>
    rw [if_neg whole] at first
    have in_domain := nrep_le_seqMax ok.seqMax_pos fits
    have count_reports := length_fragReports header frame
    rw [nrep_of_gt (Nat.lt_of_not_le whole)] at in_domain count_reports
    rw [fragReports, List.length_cons] at count_reports
    obtain ⟨j, count_rest⟩ : ∃ j, (fragLoop frame.length frame capFirst 2).length = j + 1 :=
      Nat.exists_eq_add_one.2 (by omega)
    have within : 2 + (frame.length - 52 + 60) / 61 ≤ s.cfg.seqMax + 1 := by omega
    have turns : (frame.length - 52 + 60) / 61 ≤ frame.length := by omega
    have rest := runOps_feed_fragLoop frame frame.length
      (received s (.collecting (openTransfer h (frame.take 52))) .noFrame) (openTransfer h (frame.take 52)) ok rfl
      length_field (openTransfer_buf h _) (Nat.lt_of_not_le whole) one_le_two turns within
    rw [openTransfer_count, openTransfer_nextSeq, count_rest] at rest
    rw [fragReports, List.length_cons, count_rest]
    exact runOps_cons first rest

/-- `LOOPBACK` answers the reports and then what feeding them answers (R84). -/
theorem loopback_of_feed {s s'' : State} {pid : ProtocolId} {emi : EmiId} {frame : List Octet}
    {rs : List (Nat × List Octet)} {answers : List Response}
    (transmitted : exec (.txFrag pid emi frame) s = .next (answered s (.reports rs)))
    (fed : runOps (feed rs) (answered s (.reports rs)) = .next (answers, s'')) :
    loopback pid emi frame s = .next (.reports rs :: answers, s'') := by
  have shown : (answered s (.reports rs)).response = some (.reports rs) := rfl
  simp only [loopback, transmitted, shown, fed]

/-- An engine in `IDLE` that has answered and then received in `IDLE` has only the last response to show for it. -/
theorem received_idle_answered {s : State} (idle : s.rx = .idle) (r : Response) (o : RxOutcome) :
    received (answered s r) .idle o = answered s (.rx o) := by
  simp only [received, answered, idle]

/-- Settles O60: the header that `TX.FRAG` serializes decodes to the frame's length and names, and the reports it yields
end in the frame. -/
theorem loopbackDeliversTheFrame : Obligations.LoopbackDeliversTheFrame := by
  unfold Obligations.LoopbackDeliversTheFrame
  intro s pid emi frame ok idle pid_member emi_member accepted fits
  obtain ⟨header, serialized, decoded⟩ :=
    hdrDec_hdrTob_hdrEnc ok (BitVec.ofNat 16 frame.length) pid_member emi_member
  have held : frame.length < 2 ^ 16 := Nat.lt_succ_of_le (accepted.trans ok.maxFrameLen_le)
  have length_field : (BitVec.ofNat 16 frame.length).toNat = frame.length := by
    rw [BitVec.toNat_ofNat, Nat.mod_eq_of_lt held]
  have transmitted := exec_txFrag_of_members pid_member emi_member (txFrag_of_length_le accepted serialized)
  have fed := runOps_feed_fragReports (s := answered s (.reports (fragReports header frame))) ok idle decoded
    length_field fits
  rw [received_idle_answered idle] at fed
  exact ⟨fragReports header frame, length_fragReports header frame, transmitted, loopback_of_feed transmitted fed⟩

end Sys2Proof.Machine
end
